-- ==== Sys2Proof/Word.lean ====
section
/-! DEFINITION. The word types and the record types of the card (10_state.md R23, 00_scope.md R10).
Integers of the spec are unsigned; `u8` is `Byte`, `u16` is `Half`, a `bytes` value is a list of `Byte`. -/

namespace Sys2Proof

/-- `u8` (00_scope.md R10). -/
abbrev Byte := BitVec 8

/-- `u16` (00_scope.md R10). -/
abbrev Half := BitVec 16

/-- The checksum accumulator, `ACC_WIDTH = 32` bits (00_scope.md R9, 40_checksum.md R121). -/
abbrev Acc := BitVec 32

/-- A finite byte sequence, first byte first (00_scope.md R10). -/
abbrev Bytes := List Byte

/-- `DataFrame` (10_state.md R23). The two checksums and the length are fields as found or as computed:
nothing here says that they fit the payload. -/
structure DataFrame where
  source : Byte
  destination : Byte
  ackBit : Byte
  payloadLength : Half
  headerChecksum : Half
  payload : Bytes
  payloadChecksum : Half
  deriving DecidableEq, Repr, Inhabited

/-- `AckRec` (10_state.md R23). -/
structure AckRec where
  source : Byte
  destination : Byte
  number : Byte
  checksum : Half
  deriving DecidableEq, Repr, Inhabited

/-- `SendReq` (10_state.md R23): what the host hands over. -/
structure SendReq where
  destination : Byte
  payload : Bytes
  deriving DecidableEq, Repr

/-- `EgressItem = Data(SendReq) | AckOut(source, destination, number)` (10_state.md R23). -/
inductive EgressItem where
  | data (r : SendReq)
  | ackOut (source destination number : Byte)
  deriving DecidableEq, Repr

end Sys2Proof
end

