-- ==== Sys2Proof/Config.lean ====
section
/-! DEFINITION. The parameters of 00_scope.md R9 that the steps read (the configuration registers of
10_state.md R24), which configurations are legal, the configuration input of `State.reset`, the fixed
constants of 00_scope.md R8, and the free values. -/

namespace Sys2Proof

/-- Capacity of a queue or collection: "Nat 1 or more, or unbounded" (00_scope.md R9). -/
inductive Capacity where
  | unbounded
  | bounded (n : Nat)
  deriving DecidableEq, Repr

/-- A capacity in its range (00_scope.md R9: 1 or more, or unbounded). -/
def Capacity.legal : Capacity → Bool
  | .unbounded => true
  | .bounded n => decide (1 ≤ n)

/-- `len(q) <= cap`, true of every length where the capacity is unbounded. -/
def Capacity.admits : Capacity → Nat → Bool
  | .unbounded, _ => true
  | .bounded n, len => decide (len ≤ n)

/-- `Full(q)`: "`len(q) = cap`; never true when cap is unbounded" (00_scope.md R13). -/
def Capacity.full : Capacity → Nat → Bool
  | .unbounded, _ => false
  | .bounded n, len => decide (len = n)

/-- The configuration registers (10_state.md R24). PENDING_PICK is not one of them: which entry a poll
examines is the operand of the operation that takes it (log 8). -/
structure Configuration where
  deviceId : Byte
  broadcastAddr : Byte
  maxPayload : Nat
  maxResend : Nat
  timeoutTicks : Nat
  pollTicks : Nat
  egressCap : Nat
  ingressCap : Capacity
  pendingCap : Capacity
  deriving DecidableEq, Repr

/-- A configuration of this hardware: every parameter in the range of 00_scope.md R9
(10_state.md R24, 70_reset_and_hazards.md R292 (a)). -/
def Configuration.legal (c : Configuration) : Bool :=
  decide (c.deviceId ≠ c.broadcastAddr) && decide (c.maxPayload ≤ 65535) && decide (1 ≤ c.timeoutTicks) &&
  decide (1 ≤ c.pollTicks) && decide (c.pollTicks ≤ c.timeoutTicks) && decide (1 ≤ c.egressCap) &&
  c.ingressCap.legal && c.pendingCap.legal

namespace Config

/-- `FLAG`, the unit terminator (00_scope.md R8). -/
def flag : Byte := 0x7E

/-- `ESC`, the escape prefix (00_scope.md R8). -/
def esc : Byte := 0x7D

/-- `FRAME_OVERHEAD`, also the minimum DataFrame length (00_scope.md R8). -/
def frameOverhead : Nat := 9

/-- `ACK_SIZE` (00_scope.md R8). -/
def ackSize : Nat := 5

/-- The configuration input that `State.reset` stands for. DESIGN CHOICE (log 5), unsafe: the spec leaves
DEVICE_ID, MAX_RESEND, TIMEOUT_TICKS, POLL_TICKS and EGRESS_CAP open; BROADCAST_ADDR, MAX_PAYLOAD and the two
other capacities are the spec's defaults. Every other configuration is reached by `RESET`. -/
def input : Configuration where
  deviceId := 1
  broadcastAddr := 0xFF
  maxPayload := 1500
  maxResend := 2
  timeoutTicks := 100
  pollTicks := 1
  egressCap := 16
  ingressCap := .unbounded
  pendingCap := .unbounded

/-- FREE VALUE (log 13): the unit `FRM.ENCODE` returns for a payload longer than MAX_PAYLOAD, where the operation
"is not defined" (41_frame_codec.md R141). Nothing constrains it. -/
opaque freeUnit : Nat → Bytes

/-- FREE VALUE (log 13): the frame record `FRM.ENCODE` returns for a payload longer than MAX_PAYLOAD. -/
opaque freeFrame : Nat → DataFrame

end Config

/-- `MAX_UNIT = MAX_PAYLOAD + 9` (00_scope.md R9). -/
def Configuration.maxUnit (c : Configuration) : Nat := c.maxPayload + Config.frameOverhead

end Sys2Proof
end

