-- ==== Sys2Proof/Syntax.lean ====
section
/-! DEFINITION. The operations: one constructor of `Instr` per row of spec/opcode_table.json
(30_encoding.md R110, R111). -/

namespace Sys2Proof

/-- Why `FRM.DECODE` answers `Invalid` (41_frame_codec.md R142); operand `reason` of `RX.FRAME_DROP_LEN`. -/
inductive LenReason where
  | tooShort
  | tooLong
  | lengthMismatch
  deriving DecidableEq, Repr

/-- Operand `which` of `RX.FRAME_DROP_CHK` (45_receiver.md R227). -/
inductive CheckWhich where
  | header
  | payload
  deriving DecidableEq, Repr

/-- The operations of the hardware. The first 36 are the rows of 30_encoding.md R110, the next four the classes of a
wire byte (R83), the last two the unit formats (R81, R82). Where a row of the table lists no operand but the rule works on
the unit in hand (`RX.ACK_DROP_CHK` and its like), that unit's record is the operand (log 11). -/
inductive Instr where
  -- checksum engine (40_checksum.md)
  | chkInit
  | chkAdd (v : Half)
  | chkFinal
  | chkSum (values : List Half)
  -- frame codec (41_frame_codec.md)
  | frmEncode (source destination ackBit : Byte) (payload : Bytes)
  | frmDecode (u : Bytes)
  | frmVerifyHdr (f : DataFrame)
  | frmVerifyPay (f : DataFrame)
  -- acknowledgement codec (42_ack_codec.md)
  | ackEncode (source destination number : Byte)
  | ackDecode (u : Bytes)
  | ackVerify (a : AckRec)
  -- byte transport (43_byte_transport.md)
  | btSend (u : Bytes)
  | btRxbyte (b : Byte)
  | btRecv (input : Bytes)
  -- transmitter (44_transmitter.md)
  | txDeqAck
  | txDeqFrame
  | txDeqBcast
  | txBypassAck
  | txAckMatch (e : AckRec)
  | txAckStale (e : AckRec)
  | txResend
  | txAbandon
  -- receiver (45_receiver.md)
  | rxUnit (u : Bytes)
  | rxAckAccept (a : AckRec)
  | rxAckDropChk (a : AckRec)
  | rxAckDropAddr (a : AckRec)
  | rxAckDropFull (a : AckRec)
  | rxFrameDropLen (reason : LenReason) (u : Bytes)
  | rxFrameDropChk (which : CheckWhich) (f : DataFrame)
  | rxFrameDropAddr (f : DataFrame)
  | rxFrameDup (f : DataFrame)
  | rxFrameNew (f : DataFrame)
  -- host ports, time, reset (46_host.md)
  | hostSend (destination : Byte) (payload : Bytes)
  | hostRecv
  | envTick
  | reset (config : Configuration)
  -- wire-byte classes (30_encoding.md R83)
  | wFlag
  | wEsc
  | wLiteral (b : Byte)
  | wEscaped (b : Byte)
  -- unit formats (30_encoding.md R81, R82)
  | uAck (a : AckRec)
  | uData (f : DataFrame)
  deriving DecidableEq, Repr

/-- What the environment does to `rx_stream` between the operations (46_host.md R255). No row of the opcode table stands for
these; the schedule holds them beside the operations (log 10). -/
inductive MediumEvent where
  /-- One more byte, of any value, is available. -/
  | supply (b : Byte)
  /-- The byte at index `k` of those not yet consumed is lost. -/
  | remove (k : Nat)
  /-- The byte at index `k` of those not yet consumed becomes `b`. -/
  | alter (k : Nat) (b : Byte)
  deriving DecidableEq, Repr

/-- The step of a host request that met a hold and pends at its port (60_exceptions.md R270). No row of the opcode table stands
for these apart from the request's own operation; the schedule holds them beside the operations (log 27). -/
inductive PortStep where
  /-- `HOST.SEND` of the request at index `k` of those pending at the send port. -/
  | send (k : Nat)
  /-- `HOST.RECV` of one request pending at the receive port. -/
  | recv
  deriving DecidableEq, Repr

end Sys2Proof
end

