-- ==== Sys2Proof/WellFormed.lean ====
section
/-! DEFINITION. Which terms of `Instr` an encoding can stand for. -/

namespace Sys2Proof

/-- The checks: a plain literal byte is neither `FLAG` nor `ESC` (30_encoding.md R83), and a DataFrame unit's length
field is the length of its payload (30_encoding.md R81: `payload(length)`). Every operand value of every other operation
is legal: the ranges of u8 and u16 are in the types, and the codecs restrict no field (41_frame_codec.md R141). -/
def Instr.wellFormed : Instr → Bool
  | .wLiteral b => decide (b ≠ Config.flag) && decide (b ≠ Config.esc)
  | .uData f => decide (f.payloadLength.toNat = f.payload.length)
  | .chkInit | .chkAdd _ | .chkFinal | .chkSum _
  | .frmEncode _ _ _ _ | .frmDecode _ | .frmVerifyHdr _ | .frmVerifyPay _
  | .ackEncode _ _ _ | .ackDecode _ | .ackVerify _
  | .btSend _ | .btRxbyte _ | .btRecv _
  | .txDeqAck | .txDeqFrame | .txDeqBcast | .txBypassAck | .txAckMatch _ | .txAckStale _ | .txResend | .txAbandon
  | .rxUnit _ | .rxAckAccept _ | .rxAckDropChk _ | .rxAckDropAddr _ | .rxAckDropFull _
  | .rxFrameDropLen _ _ | .rxFrameDropChk _ _ | .rxFrameDropAddr _ | .rxFrameDup _ | .rxFrameNew _
  | .hostSend _ _ | .hostRecv | .envTick | .reset _
  | .wFlag | .wEsc | .wEscaped _ | .uAck _ => true

end Sys2Proof
end

