-- ==== Sys2Proof/Decode.lean ====
section
/-! DEFINITION. The decoders, total on every byte sequence, and after them the encoders.
The hardware's own encodings are the wire byte (30_encoding.md R83), the Ack unit (R82) and the DataFrame unit (R81):
`decodeWire`, `decodeUnit`. Operations have an identifier (R110) and no operand encoding in the spec: `decode` reads the
identifier and then operands in the model's own layout (log 2), which is what `schedule` holds. -/

namespace Sys2Proof

/-! ## Byte order (00_scope.md R10, 20_memory.md R53) -/

/-- `hi8(v) = v[15:8]`. -/
def hi8 (v : Half) : Byte := BitVec.ofNat 8 (v.toNat / 256)

/-- `lo8(v) = v[7:0]`. -/
def lo8 (v : Half) : Byte := BitVec.ofNat 8 v.toNat

/-- `be16(h, l) = h * 256 + l`. -/
def be16 (h l : Byte) : Half := BitVec.ofNat 16 (h.toNat * 256 + l.toNat)

/-! ## The hardware's encodings, written out (30_encoding.md R81, R82) -/

/-- The unit of an Ack record: `source, destination, number, chk_hi, chk_lo` (30_encoding.md R82). -/
def ackUnit (a : AckRec) : Bytes :=
  [a.source, a.destination, a.number, hi8 a.checksum, lo8 a.checksum]

/-- The unit of a frame record, field by field in the order of 30_encoding.md R81. -/
def frameUnit (f : DataFrame) : Bytes :=
  [f.source, f.destination, f.ackBit, hi8 f.payloadLength, lo8 f.payloadLength,
    hi8 f.headerChecksum, lo8 f.headerChecksum] ++ f.payload ++ [hi8 f.payloadChecksum, lo8 f.payloadChecksum]

/-! ## The hardware's decoders -/

/-- The class of the next wire byte under `rx_esc` (30_encoding.md R83): escaped first, then `FLAG`, then `ESC`,
then plain literal. -/
def decodeWire (rxEsc : Bool) (b : Byte) : Instr :=
  if rxEsc then .wEscaped b
  else if b = Config.flag then .wFlag
  else if b = Config.esc then .wEsc
  else .wLiteral b

/-- Reads a DataFrame unit from the front of a byte sequence, its `payload_length` field saying how much
(30_encoding.md R81). -/
def takeFrameUnit : Bytes → Option (DataFrame × Bytes)
  | s :: d :: a :: lh :: ll :: hh :: hl :: rest =>
    let n := (be16 lh ll).toNat
    match rest.drop n with
    | ph :: pl :: rest' =>
      some (⟨s, d, a, be16 lh ll, be16 hh hl, rest.take n, be16 ph pl⟩, rest')
    | _ => none
  | _ => none

/-- Reads an Ack unit from the front of a byte sequence (30_encoding.md R82). -/
def takeAckUnit : Bytes → Option (AckRec × Bytes)
  | s :: d :: n :: ch :: cl :: rest => some (⟨s, d, n, be16 ch cl⟩, rest)
  | _ => none

/-- The format of an unstuffed unit, "purely by the decoded length after unstuffing" (30_encoding.md R90): five bytes
are an Ack, any other length whose length field fits is a DataFrame, everything else is no unit (R92). The bound MAX_UNIT
is a configuration register, so it is tested where the unit is used (`frmDecode`), not here. -/
def decodeUnit (u : Bytes) : Option Instr :=
  if u.length = Config.ackSize then
    match takeAckUnit u with
    | some (a, []) => some (.uAck a)
    | _ => none
  else
    match takeFrameUnit u with
    | some (f, []) => some (.uData f)
    | _ => none

/-! ## Operands of operations: the model's layout (log 2) -/

/-- A natural number: base-128 digits, least significant first, bit 7 set on every digit but the last; no leading zero
digit. -/
def takeNat : Bytes → Option (Nat × Bytes)
  | [] => none
  | b :: rest =>
    if b.toNat < 128 then some (b.toNat, rest)
    else
      match takeNat rest with
      | none => none
      | some (0, _) => none
      | some (q + 1, rest') => some (b.toNat - 128 + 128 * (q + 1), rest')

/-- One byte. -/
def takeByte : Bytes → Option (Byte × Bytes)
  | [] => none
  | b :: rest => some (b, rest)

/-- A u16, big-endian. -/
def takeHalf : Bytes → Option (Half × Bytes)
  | h :: l :: rest => some (be16 h l, rest)
  | _ => none

/-- A byte sequence: its length, then its bytes. -/
def takeBytes (bs : Bytes) : Option (Bytes × Bytes) :=
  match takeNat bs with
  | none => none
  | some (n, rest) => if n ≤ rest.length then some (rest.take n, rest.drop n) else none

/-- `n` values of u16. -/
def takeHalvesN : Nat → Bytes → Option (List Half × Bytes)
  | 0, bs => some ([], bs)
  | n + 1, bs =>
    match takeHalf bs with
    | none => none
    | some (v, rest) =>
      match takeHalvesN n rest with
      | none => none
      | some (vs, rest') => some (v :: vs, rest')

/-- A sequence of u16 values: its length, then the values. -/
def takeHalves (bs : Bytes) : Option (List Half × Bytes) :=
  match takeNat bs with
  | none => none
  | some (n, rest) => takeHalvesN n rest

/-- A frame record as an operand: the five header fields, the payload checksum, then the payload as a byte sequence of
its own length (so that the length field may differ from it). -/
def takeFrame : Bytes → Option (DataFrame × Bytes)
  | s :: d :: a :: lh :: ll :: hh :: hl :: ph :: pl :: rest =>
    match takeBytes rest with
    | none => none
    | some (p, rest') => some (⟨s, d, a, be16 lh ll, be16 hh hl, p, be16 ph pl⟩, rest')
  | _ => none

/-- Operand `reason` of `RX.FRAME_DROP_LEN`: 0, 1, 2. -/
def takeReason : Bytes → Option (LenReason × Bytes)
  | 0x00#8 :: rest => some (.tooShort, rest)
  | 0x01#8 :: rest => some (.tooLong, rest)
  | 0x02#8 :: rest => some (.lengthMismatch, rest)
  | _ => none

/-- Operand `which` of `RX.FRAME_DROP_CHK`: 0, 1. -/
def takeWhich : Bytes → Option (CheckWhich × Bytes)
  | 0x00#8 :: rest => some (.header, rest)
  | 0x01#8 :: rest => some (.payload, rest)
  | _ => none

/-- A capacity: 0 for unbounded, or 1 and the bound. -/
def takeCapacity : Bytes → Option (Capacity × Bytes)
  | 0x00#8 :: rest => some (.unbounded, rest)
  | 0x01#8 :: rest => (takeNat rest).map fun (n, rest') => (.bounded n, rest')
  | _ => none

/-- The configuration input of `RESET`: the parameters in the order of 00_scope.md R9. -/
def takeConfiguration (bs : Bytes) : Option (Configuration × Bytes) := do
  let (deviceId, bs) ← takeByte bs
  let (broadcastAddr, bs) ← takeByte bs
  let (maxPayload, bs) ← takeNat bs
  let (maxResend, bs) ← takeNat bs
  let (timeoutTicks, bs) ← takeNat bs
  let (pollTicks, bs) ← takeNat bs
  let (egressCap, bs) ← takeNat bs
  let (ingressCap, bs) ← takeCapacity bs
  let (pendingCap, bs) ← takeCapacity bs
  some (⟨deviceId, broadcastAddr, maxPayload, maxResend, timeoutTicks, pollTicks, egressCap, ingressCap, pendingCap⟩, bs)

/-! ## Operations -/

/-- The identifiers: those of 30_encoding.md R110, `FLAG` and `ESC` for the two wire classes with a value of their own
(R111), and four identifiers R110 leaves unassigned for the two classes of any byte and the two unit formats (log 2). -/
def identifiers : List Byte :=
  [0x10, 0x11, 0x12, 0x13, 0x20, 0x21, 0x22, 0x23, 0x30, 0x31, 0x32, 0x40, 0x41, 0x42,
    0x50, 0x51, 0x52, 0x53, 0x54, 0x55, 0x56, 0x57,
    0x60, 0x61, 0x62, 0x63, 0x64, 0x65, 0x66, 0x67, 0x68, 0x69,
    0x70, 0x71, 0x72, 0x73, 0x7E, 0x7D, 0x00, 0x01, 0x02, 0x03]

/-- The operands that follow identifier `op`, and the operation they make. -/
def decodeOperands (op : Byte) (bs : Bytes) : Option (Instr × Bytes) :=
  match op with
  | 0x10#8 => some (.chkInit, bs)
  | 0x11#8 => (takeHalf bs).map fun (v, r) => (.chkAdd v, r)
  | 0x12#8 => some (.chkFinal, bs)
  | 0x13#8 => (takeHalves bs).map fun (vs, r) => (.chkSum vs, r)
  | 0x20#8 =>
    match bs with
    | s :: d :: a :: rest => (takeBytes rest).map fun (p, r) => (.frmEncode s d a p, r)
    | _ => none
  | 0x21#8 => (takeBytes bs).map fun (u, r) => (.frmDecode u, r)
  | 0x22#8 => (takeFrame bs).map fun (f, r) => (.frmVerifyHdr f, r)
  | 0x23#8 => (takeFrame bs).map fun (f, r) => (.frmVerifyPay f, r)
  | 0x30#8 =>
    match bs with
    | s :: d :: n :: r => some (.ackEncode s d n, r)
    | _ => none
  | 0x31#8 => (takeBytes bs).map fun (u, r) => (.ackDecode u, r)
  | 0x32#8 => (takeAckUnit bs).map fun (a, r) => (.ackVerify a, r)
  | 0x40#8 => (takeBytes bs).map fun (u, r) => (.btSend u, r)
  | 0x41#8 => (takeByte bs).map fun (b, r) => (.btRxbyte b, r)
  | 0x42#8 => (takeBytes bs).map fun (u, r) => (.btRecv u, r)
  | 0x50#8 => some (.txDeqAck, bs)
  | 0x51#8 => some (.txDeqFrame, bs)
  | 0x52#8 => some (.txDeqBcast, bs)
  | 0x53#8 => some (.txBypassAck, bs)
  | 0x54#8 => (takeAckUnit bs).map fun (e, r) => (.txAckMatch e, r)
  | 0x55#8 => (takeAckUnit bs).map fun (e, r) => (.txAckStale e, r)
  | 0x56#8 => some (.txResend, bs)
  | 0x57#8 => some (.txAbandon, bs)
  | 0x60#8 => (takeBytes bs).map fun (u, r) => (.rxUnit u, r)
  | 0x61#8 => (takeAckUnit bs).map fun (a, r) => (.rxAckAccept a, r)
  | 0x62#8 => (takeAckUnit bs).map fun (a, r) => (.rxAckDropChk a, r)
  | 0x63#8 => (takeAckUnit bs).map fun (a, r) => (.rxAckDropAddr a, r)
  | 0x64#8 => (takeAckUnit bs).map fun (a, r) => (.rxAckDropFull a, r)
  | 0x65#8 =>
    match takeReason bs with
    | some (q, rest) => (takeBytes rest).map fun (u, r) => (.rxFrameDropLen q u, r)
    | none => none
  | 0x66#8 =>
    match takeWhich bs with
    | some (w, rest) => (takeFrame rest).map fun (f, r) => (.rxFrameDropChk w f, r)
    | none => none
  | 0x67#8 => (takeFrame bs).map fun (f, r) => (.rxFrameDropAddr f, r)
  | 0x68#8 => (takeFrame bs).map fun (f, r) => (.rxFrameDup f, r)
  | 0x69#8 => (takeFrame bs).map fun (f, r) => (.rxFrameNew f, r)
  | 0x70#8 =>
    match bs with
    | d :: rest => (takeBytes rest).map fun (p, r) => (.hostSend d p, r)
    | [] => none
  | 0x71#8 => some (.hostRecv, bs)
  | 0x72#8 => some (.envTick, bs)
  | 0x73#8 => (takeConfiguration bs).map fun (c, r) => (.reset c, r)
  | 0x7E#8 => some (.wFlag, bs)
  | 0x7D#8 => some (.wEsc, bs)
  | 0x00#8 =>
    match bs with
    | b :: r => if b = Config.flag ∨ b = Config.esc then none else some (.wLiteral b, r)
    | [] => none
  | 0x01#8 => (takeByte bs).map fun (b, r) => (.wEscaped b, r)
  | 0x02#8 => (takeAckUnit bs).map fun (a, r) => (.uAck a, r)
  | 0x03#8 => (takeFrameUnit bs).map fun (f, r) => (.uData f, r)
  | _ => none

/-- Why bytes are no operation. -/
inductive Reject where
  /-- There are no bytes. -/
  | nothing
  /-- The first byte is no identifier (30_encoding.md R110). -/
  | unknownIdentifier (op : Byte)
  /-- The bytes after identifier `op` are not its operands. -/
  | badOperands (op : Byte)
  deriving DecidableEq, Repr

/-- The operation at the front of a byte sequence and the bytes after it. -/
def decode (bs : Bytes) : Except Reject (Instr × Bytes) :=
  match bs with
  | [] => .error .nothing
  | op :: rest =>
    if identifiers.contains op then
      match decodeOperands op rest with
      | some r => .ok r
      | none => .error (.badOperands op)
    else .error (.unknownIdentifier op)

/-- What the environment does to `rx_stream`, at the front of a byte sequence: 0x04, 0x05, 0x06, which are no identifiers, and
then the arguments (log 10). -/
def takeMedium : Bytes → Option (MediumEvent × Bytes)
  | 0x04#8 :: rest => (takeByte rest).map fun (b, r) => (.supply b, r)
  | 0x05#8 :: rest => (takeNat rest).map fun (k, r) => (.remove k, r)
  | 0x06#8 :: rest => do
    let (k, r) ← takeNat rest
    let (b, r) ← takeByte r
    return (.alter k b, r)
  | _ => none

/-- The step of a request pending at a host port, at the front of a byte sequence: 0x07 and the index, or 0x08, which are no
identifiers (log 27). -/
def takePort : Bytes → Option (PortStep × Bytes)
  | 0x07#8 :: rest => (takeNat rest).map fun (k, r) => (.send k, r)
  | 0x08#8 :: rest => some (.recv, rest)
  | _ => none

/-! ## The encoder -/

/-- `takeNat`'s layout; the first argument bounds the number of digits. -/
def putNatFuel : Nat → Nat → Bytes
  | 0, n => [BitVec.ofNat 8 n]
  | k + 1, n => if n < 128 then [BitVec.ofNat 8 n] else BitVec.ofNat 8 (128 + n % 128) :: putNatFuel k (n / 128)

/-- `takeNat`'s layout. -/
def putNat (n : Nat) : Bytes := putNatFuel n n

/-- `takeHalf`'s layout. -/
def putHalf (v : Half) : Bytes := [hi8 v, lo8 v]

/-- `takeBytes`'s layout. -/
def putBytes (u : Bytes) : Bytes := putNat u.length ++ u

/-- `takeHalves`'s layout. -/
def putHalves (vs : List Half) : Bytes := putNat vs.length ++ vs.flatMap putHalf

/-- `takeFrame`'s layout. -/
def putFrame (f : DataFrame) : Bytes :=
  [f.source, f.destination, f.ackBit, hi8 f.payloadLength, lo8 f.payloadLength, hi8 f.headerChecksum,
    lo8 f.headerChecksum, hi8 f.payloadChecksum, lo8 f.payloadChecksum] ++ putBytes f.payload

/-- `takeReason`'s layout. -/
def putReason : LenReason → Byte
  | .tooShort => 0
  | .tooLong => 1
  | .lengthMismatch => 2

/-- `takeWhich`'s layout. -/
def putWhich : CheckWhich → Byte
  | .header => 0
  | .payload => 1

/-- `takeCapacity`'s layout. -/
def putCapacity : Capacity → Bytes
  | .unbounded => [0]
  | .bounded n => 1 :: putNat n

/-- `takeConfiguration`'s layout. -/
def putConfiguration (c : Configuration) : Bytes :=
  [c.deviceId, c.broadcastAddr] ++ putNat c.maxPayload ++ putNat c.maxResend ++ putNat c.timeoutTicks ++
    putNat c.pollTicks ++ putNat c.egressCap ++ putCapacity c.ingressCap ++ putCapacity c.pendingCap

/-- The identifier of an operation (30_encoding.md R110; for the last six, `identifiers`). -/
def Instr.identifier : Instr → Byte
  | .chkInit => 0x10
  | .chkAdd _ => 0x11
  | .chkFinal => 0x12
  | .chkSum _ => 0x13
  | .frmEncode _ _ _ _ => 0x20
  | .frmDecode _ => 0x21
  | .frmVerifyHdr _ => 0x22
  | .frmVerifyPay _ => 0x23
  | .ackEncode _ _ _ => 0x30
  | .ackDecode _ => 0x31
  | .ackVerify _ => 0x32
  | .btSend _ => 0x40
  | .btRxbyte _ => 0x41
  | .btRecv _ => 0x42
  | .txDeqAck => 0x50
  | .txDeqFrame => 0x51
  | .txDeqBcast => 0x52
  | .txBypassAck => 0x53
  | .txAckMatch _ => 0x54
  | .txAckStale _ => 0x55
  | .txResend => 0x56
  | .txAbandon => 0x57
  | .rxUnit _ => 0x60
  | .rxAckAccept _ => 0x61
  | .rxAckDropChk _ => 0x62
  | .rxAckDropAddr _ => 0x63
  | .rxAckDropFull _ => 0x64
  | .rxFrameDropLen _ _ => 0x65
  | .rxFrameDropChk _ _ => 0x66
  | .rxFrameDropAddr _ => 0x67
  | .rxFrameDup _ => 0x68
  | .rxFrameNew _ => 0x69
  | .hostSend _ _ => 0x70
  | .hostRecv => 0x71
  | .envTick => 0x72
  | .reset _ => 0x73
  | .wFlag => 0x7E
  | .wEsc => 0x7D
  | .wLiteral _ => 0x00
  | .wEscaped _ => 0x01
  | .uAck _ => 0x02
  | .uData _ => 0x03

/-- The operand bytes of an operation. -/
def Instr.operandBytes : Instr → Bytes
  | .chkAdd v => putHalf v
  | .chkSum vs => putHalves vs
  | .frmEncode s d a p => [s, d, a] ++ putBytes p
  | .frmDecode u | .ackDecode u | .btSend u | .btRecv u | .rxUnit u => putBytes u
  | .frmVerifyHdr f | .frmVerifyPay f | .rxFrameDropAddr f | .rxFrameDup f | .rxFrameNew f => putFrame f
  | .ackEncode s d n => [s, d, n]
  | .ackVerify a | .txAckMatch a | .txAckStale a | .rxAckAccept a | .rxAckDropChk a | .rxAckDropAddr a
  | .rxAckDropFull a | .uAck a => ackUnit a
  | .btRxbyte b | .wLiteral b | .wEscaped b => [b]
  | .rxFrameDropLen q u => putReason q :: putBytes u
  | .rxFrameDropChk w f => putWhich w :: putFrame f
  | .hostSend d p => d :: putBytes p
  | .reset c => putConfiguration c
  | .uData f => frameUnit f
  | .chkInit | .chkFinal | .txDeqAck | .txDeqFrame | .txDeqBcast | .txBypassAck | .txResend | .txAbandon
  | .hostRecv | .envTick | .wFlag | .wEsc => []

/-- The bytes of an operation: its identifier and its operands. -/
def encode (i : Instr) : Bytes := i.identifier :: i.operandBytes

/-- `takeMedium`'s layout. -/
def encodeMedium : MediumEvent → Bytes
  | .supply b => [0x04, b]
  | .remove k => 0x05 :: putNat k
  | .alter k b => 0x06 :: (putNat k ++ [b])

/-- `takePort`'s layout. -/
def encodePort : PortStep → Bytes
  | .send k => 0x07 :: putNat k
  | .recv => [0x08]

/-! ## The host's table words -/

/-- The `n` low-order bytes of `w`, byte `k` being bits `8k+7 .. 8k`: the bytes in the order in which they stand. -/
def bytesOfWord : Nat → Nat → Bytes
  | 0, _ => []
  | n + 1, w => BitVec.ofNat 8 w :: bytesOfWord n (w / 256)

/-- The bytes of a row of spec/opcode_table.json as `schedule` holds them, the bits above `nbits` zero. A row of 8 bits
is an operation or a wire byte; a row of 40 bits is the Ack unit and a longer one the DataFrame unit, which have no
identifier in the table, so theirs is put in front (log 24). -/
def tableBytes (nbits w : Nat) : Bytes :=
  let laidOut := bytesOfWord (nbits / 8) w ++ List.replicate 24 0
  if nbits < 40 then laidOut
  else if nbits = 40 then 0x02 :: laidOut
  else 0x03 :: laidOut

/-- The instruction the decoder reads from a row's word. -/
def decodeTableWord (nbits w : Nat) : Option Instr :=
  match decode (tableBytes nbits w) with
  | .ok (i, _) => some i
  | .error _ => none

end Sys2Proof
end

