-- ==== Sys2Proof/Machine/State.lean ====
section
/-! DEFINITION. The state of one card (10_state.md), as plain data, the types held in it, the reasons a step can stop,
and the state after reset (10_state.md R37). -/

namespace Sys2Proof.Machine

/-- The conditions of 60_exceptions.md R261. -/
inductive DiagCode where
  | unitShort
  | unitLong
  | lenMismatch
  | hdrChk
  | payChk
  | ackChk
  | ackMisaddr
  | frameMisaddr
  | dupFrame
  | staleAck
  | resend
  | abandon
  | pendingFull
  | sendTooLong
  deriving DecidableEq, Repr

/-- The header of a frame: its first five fields (00_scope.md R17). -/
structure Header where
  source : Byte
  destination : Byte
  ackBit : Byte
  payloadLength : Half
  headerChecksum : Half
  deriving DecidableEq, Repr

/-- "info recorded", the last column of 60_exceptions.md R261 (log 17). -/
inductive DiagInfo where
  | length (n : Nat)
  | lengths (field present : Nat)
  | sums (stored recomputed : Half)
  | ack (a : AckRec)
  | header (h : Header)
  | attempts (n : Nat)
  deriving DecidableEq, Repr

/-- One event `(code, info)` of the diagnostic port (60_exceptions.md R260). -/
structure Event where
  code : DiagCode
  info : DiagInfo
  deriving DecidableEq, Repr

/-- `tx_state` (10_state.md R30, R31). The fields of `AwaitingAck` exist only in `AwaitingAck`. -/
inductive TxState where
  | idle
  | awaitingAck (frame : DataFrame) (startedAt attempts : Nat)
  deriving DecidableEq, Repr

/-- What an operation returned to its caller. The MODEL's own (log 4): the spec's operations return values, and a step of
a machine shows them here. `held` says that the operation was not enabled and nothing else happened (log 3), but that a host request pends
(log 27). -/
inductive Answer where
  /-- The operation returns nothing. -/
  | void
  /-- The operation was not enabled: it waits (00_scope.md R14). -/
  | held
  /-- `CHK.FINAL`, `CHK.SUM`. -/
  | sum (v : Half)
  /-- The verify operations. -/
  | truth (b : Bool)
  /-- `ACK.ENCODE`, `BT.SEND`, `BT.RECV`. -/
  | bytes (u : Bytes)
  /-- `FRM.ENCODE`: the unit and the record. -/
  | encoded (u : Bytes) (f : DataFrame)
  /-- `FRM.DECODE`, `HOST.RECV`. -/
  | frame (f : DataFrame)
  /-- `FRM.DECODE`: `Invalid(reason)`. -/
  | invalid (reason : LenReason)
  /-- `ACK.DECODE`. -/
  | ack (a : AckRec)
  /-- `ACK.DECODE`: `Invalid(NotAckSize)`. -/
  | notAckSize
  /-- `HOST.SEND`: `Queued`. -/
  | queued
  /-- `HOST.SEND`: `Refused`; `RESET` with an illegal configuration (log 9). -/
  | refused
  deriving DecidableEq, Repr

/-- The outcomes of `RX.UNIT` (45_receiver.md R220). -/
inductive Verdict where
  | ackDropChk (a : AckRec)
  | ackDropAddr (a : AckRec)
  | ackDropFull (a : AckRec)
  | ackAccept (a : AckRec)
  | frameDropLen (reason : LenReason)
  | frameDropChk (which : CheckWhich) (f : DataFrame)
  | frameDropAddr (f : DataFrame)
  | frameDup (f : DataFrame)
  | frameNew (f : DataFrame)
  deriving DecidableEq, Repr

/-- The agents that take steps of a card (60_exceptions.md R275). -/
inductive Agent where
  | host
  | tx
  | rx
  | env
  deriving DecidableEq, Repr

/-- Faults: there are none. "The hardware has no trap" (60_exceptions.md R264), so no constructor exists and no step can
answer a fault. Safe and unsafe do not arise. -/
inductive Fault : Type
  deriving DecidableEq, Repr

/-- Reasons a step is refused. -/
inductive Refusal where
  /-- Raised by `exec` for an operation that has no meaning yet; no operation is left so. Safe: the run stops. -/
  | notModelled (mnemonic : String)
  /-- Raised by `step` when the bytes of `schedule` are no operation and none of the steps that stand beside the operations
  (logs 10, 27): their first byte is no identifier of 30_encoding.md R110, or it is followed by no operands of that operation.
  Safe: no such step of the hardware exists and the run stops (log 15). -/
  | noOperation (identifier : Byte)
  deriving DecidableEq, Repr

/-- The state of one card. -/
structure State where
  /-- The configuration registers (10_state.md R24). -/
  cfg : Configuration
  /-- `next_ack_to_send` (R25). -/
  nextAckToSend : Byte
  /-- `last_seen` (R26): one entry per device number. -/
  lastSeen : Vector (Option Byte) 256
  /-- `pending_acks` (R27), in order of insertion, oldest first (log 16). -/
  pendingAcks : List AckRec
  /-- `egress` (R28), oldest first. -/
  egress : List EgressItem
  /-- `ingress` (R29), oldest first. -/
  ingress : List DataFrame
  /-- `tx_state` (R30, R31). -/
  txState : TxState
  /-- `now` (R32). -/
  now : Nat
  /-- `rx_buf` (R33). -/
  rxBuf : Bytes
  /-- `rx_esc` (R34). -/
  rxEsc : Bool
  /-- The accumulator of a checksum computation taken step by step (R35, 40_checksum.md R121). -/
  acc : Acc
  /-- `tx_stream` (R36). -/
  txStream : Bytes
  /-- `rx_stream` (R36): bytes made available and not yet consumed (46_host.md R255). -/
  rxStream : Bytes
  /-- `diag` (R36), oldest event first. -/
  diag : List Event
  /-- The send requests that met a hold and pend at the send port (60_exceptions.md R270), the first held in front (log 27). -/
  sendPort : List SendReq
  /-- How many receive requests pend at the receive port (60_exceptions.md R270; log 27). -/
  recvPort : Nat
  /-- The MODEL's own: what the last operation returned (log 4). -/
  answer : Answer
  /-- The MODEL's own: the steps still to be taken, encoded: operations, and between them the medium's events and
  the steps of pending requests (log 1, 10, 27). -/
  schedule : Bytes
  /-- The MODEL's own: how many free values have been used (log 13). -/
  freeCount : Nat
  deriving DecidableEq, Repr

/-- The state after reset with configuration input `c` (10_state.md R37). `acc`, the host ports and the
model's own fields have no reset value in the spec: DESIGN CHOICE (log 1, 4, 6, 13, 27). -/
def State.resetWith (c : Configuration) : State where
  cfg := c
  nextAckToSend := 0
  lastSeen := Vector.replicate 256 none
  pendingAcks := []
  egress := []
  ingress := []
  txState := .idle
  now := 0
  rxBuf := []
  rxEsc := false
  acc := 0
  txStream := []
  rxStream := []
  diag := []
  sendPort := []
  recvPort := 0
  answer := .void
  schedule := []
  freeCount := 0

/-- The machine right after reset, with the configuration input the model names (log 5). -/
def State.reset : State := State.resetWith Config.input

end Sys2Proof.Machine
end

