-- ==== Sys2Proof/Machine/Operands.lean ====
section
/-! DEFINITION. The pure functions of the hardware: buffer access (00_scope.md R12), the checksum engine
(40_checksum.md), the frame and acknowledgement codecs (41_frame_codec.md, 42_ack_codec.md), stuffing and unstuffing
(43_byte_transport.md). None reads or writes state. -/

namespace Sys2Proof.Machine

/-! ## Buffer access -/

/-- `MemRead(buf, off, 1)` (00_scope.md R12); callers establish `off + 1 <= len(buf)`. -/
def memRead1 (buf : Bytes) (off : Nat) : Byte := buf.getD off 0

/-- `MemRead(buf, off, 2)`, most significant byte first (00_scope.md R12). -/
def memRead2 (buf : Bytes) (off : Nat) : Half := be16 (memRead1 buf off) (memRead1 buf (off + 1))

/-- `MemWrite(buf, off, 1, v)` (00_scope.md R12). -/
def memWrite1 (buf : Bytes) (off : Nat) (v : Byte) : Bytes := buf.set off v

/-- `MemWrite(buf, off, 2, v)`, most significant byte first (00_scope.md R12). -/
def memWrite2 (buf : Bytes) (off : Nat) (v : Half) : Bytes := (buf.set off (hi8 v)).set (off + 1) (lo8 v)

/-! ## Checksum engine -/

/-- One fold, `(s & 0xFFFF) + (s >> 16)` on the exact sum (40_checksum.md R122). -/
def fold (s : Nat) : Nat := s % 65536 + s / 65536

/-- `while s > 0xFFFF: s <- fold s`; the first argument bounds the number of turns. From a 32-bit accumulator four turns
are always enough, and from one within R122's precondition none is needed (40_checksum.md R126). -/
def foldWhile : Nat → Nat → Nat
  | 0, s => s
  | k + 1, s => if s > 65535 then foldWhile k (fold s) else s

/-- `CHK.ADD`: exact addition, one fold, then folds until none is needed (40_checksum.md R122). -/
def chkAdd (acc : Acc) (v : Half) : Acc := BitVec.ofNat 32 (foldWhile 4 (fold (acc.toNat + v.toNat)))

/-- `CHK.FINAL`: `(~acc) & 0xFFFF` (40_checksum.md R123). -/
def chkFinal (acc : Acc) : Half := (~~~acc).setWidth 16

/-- `CHK.SUM`: `CHK.INIT`, one `CHK.ADD` per element in order, `CHK.FINAL` (40_checksum.md R124). -/
def chkSum (values : List Half) : Half := chkFinal (values.foldl chkAdd 0)

/-- A field or a byte as an element of the checksum (40_checksum.md R125): the byte's value, never paired. -/
def element (b : Byte) : Half := b.setWidth 16

/-- The header checksum covers four values (30_encoding.md R85). -/
def headerSum (source destination ackBit : Byte) (len : Half) : Half :=
  chkSum [element source, element destination, element ackBit, len]

/-- The payload checksum covers one element per byte (30_encoding.md R86). -/
def payloadSum (payload : Bytes) : Half := chkSum (payload.map element)

/-- The Ack checksum covers three values (30_encoding.md R87). -/
def ackSum (source destination number : Byte) : Half :=
  chkSum [element source, element destination, element number]

/-! ## Frame codec -/

/-- The record `FRM.ENCODE` returns (41_frame_codec.md R141). -/
def makeFrame (source destination ackBit : Byte) (payload : Bytes) : DataFrame :=
  let len : Half := BitVec.ofNat 16 payload.length
  ⟨source, destination, ackBit, len, headerSum source destination ackBit len, payload, payloadSum payload⟩

/-- The unit `FRM.ENCODE` returns: its record's fields in the order of 30_encoding.md R81. -/
def frmEncode (source destination ackBit : Byte) (payload : Bytes) : Bytes :=
  frameUnit (makeFrame source destination ackBit payload)

/-- `FRM.DECODE` (41_frame_codec.md R142). -/
def frmDecode (c : Configuration) (u : Bytes) : Except LenReason DataFrame :=
  let n := u.length
  if n < Config.frameOverhead then .error .tooShort
  else if n > c.maxUnit then .error .tooLong
  else
    let len := memRead2 u 3
    if len.toNat ≠ n - Config.frameOverhead then .error .lengthMismatch
    else .ok
      { source := memRead1 u 0
        destination := memRead1 u 1
        ackBit := memRead1 u 2
        payloadLength := len
        headerChecksum := memRead2 u 5
        payload := (u.drop 7).take len.toNat
        payloadChecksum := memRead2 u (7 + len.toNat) }

/-- `FRM.VERIFY_HDR`: recompute and compare (41_frame_codec.md R143). -/
def frmVerifyHdr (f : DataFrame) : Bool :=
  f.headerChecksum == headerSum f.source f.destination f.ackBit f.payloadLength

/-- `FRM.VERIFY_PAY` (41_frame_codec.md R144). -/
def frmVerifyPay (f : DataFrame) : Bool := f.payloadChecksum == payloadSum f.payload

/-! ## Acknowledgement codec -/

/-- The record of an Ack with its checksum appended (42_ack_codec.md R161). -/
def makeAck (source destination number : Byte) : AckRec :=
  ⟨source, destination, number, ackSum source destination number⟩

/-- `ACK.ENCODE` (42_ack_codec.md R161). -/
def ackEncode (source destination number : Byte) : Bytes := ackUnit (makeAck source destination number)

/-- The fields of a five-byte unit (30_encoding.md R82). -/
def ackFields (u : Bytes) : AckRec := ⟨memRead1 u 0, memRead1 u 1, memRead1 u 2, memRead2 u 3⟩

/-- `ACK.DECODE`; `none` is `Invalid(NotAckSize)` (42_ack_codec.md R162). -/
def ackDecode (u : Bytes) : Option AckRec :=
  if u.length ≠ Config.ackSize then none else some (ackFields u)

/-- `ACK.VERIFY` (42_ack_codec.md R163). -/
def ackVerify (a : AckRec) : Bool := a.checksum == ackSum a.source a.destination a.number

/-! ## Byte transport -/

/-- One byte of a unit as it goes on the stream (43_byte_transport.md R171). -/
def stuffByte (b : Byte) : Bytes := if b = Config.flag ∨ b = Config.esc then [Config.esc, b] else [b]

/-- `BT.SEND`: stuff, then terminate (43_byte_transport.md R171). -/
def btSend (u : Bytes) : Bytes := u.flatMap stuffByte ++ [Config.flag]

/-- `BT.RECV` from unstuffer state `(buf, escaped)`: consumes bytes up to the first terminator and returns the unit and
the bytes left over (43_byte_transport.md R177). -/
def btRecvFrom (buf : Bytes) (escaped : Bool) : Bytes → Option (Bytes × Bytes)
  | [] => none
  | b :: rest =>
    if escaped then btRecvFrom (buf ++ [b]) false rest
    else if b = Config.flag then some (buf, rest)
    else if b = Config.esc then btRecvFrom buf true rest
    else btRecvFrom (buf ++ [b]) false rest

/-- `BT.RECV`: from `rx_buf = []`, `rx_esc = false` (43_byte_transport.md R177). -/
def btRecv (input : Bytes) : Option (Bytes × Bytes) := btRecvFrom [] false input

/-! ## Diagnostic information -/

/-- The number of a condition (60_exceptions.md R261). -/
def diagNumber : DiagCode → Byte
  | .unitShort => 0x01
  | .unitLong => 0x02
  | .lenMismatch => 0x03
  | .hdrChk => 0x04
  | .payChk => 0x05
  | .ackChk => 0x06
  | .ackMisaddr => 0x07
  | .frameMisaddr => 0x08
  | .dupFrame => 0x09
  | .staleAck => 0x0A
  | .resend => 0x0B
  | .abandon => 0x0C
  | .pendingFull => 0x0D
  | .sendTooLong => 0x0E

/-- "the header" as recorded information (60_exceptions.md R261). -/
def headerOf (f : DataFrame) : Header :=
  ⟨f.source, f.destination, f.ackBit, f.payloadLength, f.headerChecksum⟩

/-- The condition of an undecodable unit (45_receiver.md R226). -/
def lenCode : LenReason → DiagCode
  | .tooShort => .unitShort
  | .tooLong => .unitLong
  | .lengthMismatch => .lenMismatch

/-- What `RX.FRAME_DROP_LEN` records of a unit: its length, or for a mismatch the field and the bytes present
(60_exceptions.md R261). -/
def lenInfo (reason : LenReason) (u : Bytes) : DiagInfo :=
  match reason with
  | .tooShort | .tooLong => .length u.length
  | .lengthMismatch => .lengths (memRead2 u 3).toNat (u.length - Config.frameOverhead)

/-- The condition of a failed frame checksum (45_receiver.md R227). -/
def chkCode : CheckWhich → DiagCode
  | .header => .hdrChk
  | .payload => .payChk

/-- What `RX.FRAME_DROP_CHK` records: stored and recomputed values (60_exceptions.md R261). -/
def chkInfo (which : CheckWhich) (f : DataFrame) : DiagInfo :=
  match which with
  | .header => .sums f.headerChecksum (headerSum f.source f.destination f.ackBit f.payloadLength)
  | .payload => .sums f.payloadChecksum (payloadSum f.payload)

end Sys2Proof.Machine
end

