-- ==== Sys2Proof/Machine/Flags.lean ====
section
/-! DEFINITION. The hardware has no flags (10_state.md R22). What stands in their place is here: the conditions on state
that the guards of the steps test, and the Receiver's choice among its outcomes. -/

namespace Sys2Proof.Machine

/-! ## Room (00_scope.md R13) -/

/-- `Full(egress)`. -/
def egressFull (s : State) : Bool := decide (s.egress.length = s.cfg.egressCap)

/-- `Full(ingress)`. -/
def ingressFull (s : State) : Bool := s.cfg.ingressCap.full s.ingress.length

/-- `Full(pending_acks)`. -/
def pendingFull (s : State) : Bool := s.cfg.pendingCap.full s.pendingAcks.length

/-! ## Transmitter (44_transmitter.md R195) -/

/-- `awaited(e)`, awaiting the frame `f`. -/
def awaited (s : State) (f : DataFrame) (e : AckRec) : Bool :=
  e.destination == s.cfg.deviceId && e.source == f.destination

/-- `genuine(e)`. -/
def genuine (s : State) (f : DataFrame) (e : AckRec) : Bool :=
  awaited s f e && e.number == s.nextAckToSend

/-- `stale(e)`: all 8 bits of `number` are compared. -/
def stale (s : State) (f : DataFrame) (e : AckRec) : Bool :=
  awaited s f e && e.number != s.nextAckToSend

/-- `expired`: `now - started_at >= TIMEOUT_TICKS` (log 18). -/
def expired (s : State) (startedAt : Nat) : Bool := decide (s.now - startedAt ≥ s.cfg.timeoutTicks)

/-- Some entry of `pending_acks` is genuine. -/
def genuinePending (s : State) (f : DataFrame) : Bool := s.pendingAcks.any (genuine s f)

/-- PENDING_PICK's reference choice: of the entries with a property, the one inserted earliest (44_transmitter.md R197). -/
def oldestPending (s : State) (p : AckRec → Bool) : Option AckRec := s.pendingAcks.find? p

/-! ## Receiver (45_receiver.md R220) -/

/-- `last_seen[d]` (10_state.md R26). -/
def seen (s : State) (d : Byte) : Option Byte := s.lastSeen[d.toNat]'(d.isLt)

/-- "destination matches" this device or the broadcast address (45_receiver.md R228). -/
def addressedHere (s : State) (f : DataFrame) : Bool :=
  f.destination == s.cfg.deviceId || f.destination == s.cfg.broadcastAddr

/-- A unicast frame (00_scope.md R17). -/
def unicast (s : State) (f : DataFrame) : Bool := f.destination != s.cfg.broadcastAddr

/-- The outcome of `RX.UNIT u`: the tests in the order of 45_receiver.md R220, the first that applies deciding. -/
def classify (s : State) (u : Bytes) : Verdict :=
  if u.length = Config.ackSize then
    let a := ackFields u
    if !ackVerify a then .ackDropChk a
    else if a.destination ≠ s.cfg.deviceId then .ackDropAddr a
    else if pendingFull s then .ackDropFull a
    else .ackAccept a
  else
    match frmDecode s.cfg u with
    | .error reason => .frameDropLen reason
    | .ok f =>
      if !frmVerifyHdr f then .frameDropChk .header f
      else if !frmVerifyPay f then .frameDropChk .payload f
      else if !addressedHere s f then .frameDropAddr f
      else if seen s f.source = some f.ackBit then .frameDup f
      else .frameNew f

/-- The outcomes that are held for lack of room (45_receiver.md R231): delivery needs `ingress`, an Ack needs `egress`. -/
def verdictHeld (s : State) : Verdict → Bool
  | .frameNew f => ingressFull s || (unicast s f && egressFull s)
  | .frameDup f => unicast s f && egressFull s
  | .ackDropChk _ | .ackDropAddr _ | .ackDropFull _ | .ackAccept _ | .frameDropLen _ | .frameDropChk _ _
  | .frameDropAddr _ => false

end Sys2Proof.Machine
end

