-- ==== Sys2Proof/Machine/Ops.lean ====
section
/-! DEFINITION. The named operations on state that the meanings are made of: answers and holds (00_scope.md R14),
events and drops, the stream ports, the queue and collection primitives (R13), requests at the host ports (60_exceptions.md
R270), the Receiver's handling of a unit (45_receiver.md R220) and of a wire byte (43_byte_transport.md R172). -/

namespace Sys2Proof.Machine

/-- The outcome of a step. -/
abbrev Result := Host.Outcome State Fault Refusal

/-! ## Answers and holds -/

/-- The step is taken and returns `a` (log 4). -/
def State.finish (s : State) (a : Answer) : Result := .next { s with answer := a }

/-- The step is held: it is not enabled, and nothing is written (00_scope.md R14, 60_exceptions.md R280; log 3). A host request
first goes to its port, where it pends (`sendStep`, `recvStep`). -/
def State.hold (s : State) : Result := s.finish .held

/-! ## Events (60_exceptions.md R260) -/

/-- `Emit(code, info)` (00_scope.md R14). -/
def State.emit (s : State) (code : DiagCode) (info : DiagInfo) : State := { s with diag := s.diag ++ [⟨code, info⟩] }

/-- `raise Drop(code)`: the unit is discarded and the event is all that is written (00_scope.md R14,
60_exceptions.md R264). This is what takes the place of taking an exception; there is no return from it (R265). -/
def State.drop (s : State) (code : DiagCode) (info : DiagInfo) : State := s.emit code info

/-! ## Ports, queues, collection, table -/

/-- `Transmit(u)`: appends `BT.SEND(u)` to `tx_stream` (00_scope.md R14). -/
def State.transmit (s : State) (u : Bytes) : State := { s with txStream := s.txStream ++ btSend u }

/-- `Enq(egress, item)`. -/
def State.enqEgress (s : State) (item : EgressItem) : State := { s with egress := s.egress ++ [item] }

/-- `Deq(egress)`, the removal; the item is the head. -/
def State.deqEgress (s : State) : State := { s with egress := s.egress.tail }

/-- `Enq(ingress, f)`. -/
def State.enqIngress (s : State) (f : DataFrame) : State := { s with ingress := s.ingress ++ [f] }

/-- `Deq(ingress)`, the removal; the item is the head. -/
def State.deqIngress (s : State) : State := { s with ingress := s.ingress.tail }

/-- `Insert(pending_acks, a)`: equal entries are kept separately (10_state.md R27). -/
def State.insertAck (s : State) (a : AckRec) : State := { s with pendingAcks := s.pendingAcks ++ [a] }

/-- `Remove(pending_acks, e)`: one occurrence (00_scope.md R13; the oldest of equal ones, log 16). -/
def State.removeAck (s : State) (e : AckRec) : State := { s with pendingAcks := s.pendingAcks.erase e }

/-- `last_seen[d] <- some b`. -/
def State.recordSeen (s : State) (d b : Byte) : State := { s with lastSeen := s.lastSeen.set d.toNat (some b) d.isLt }

/-- `tx_state <- t`. -/
def State.setTx (s : State) (t : TxState) : State := { s with txState := t }

/-! ## Requests at the host ports

"A request that meets a hold stays pending at its port until the hold lifts; nothing masks or discards it"
(60_exceptions.md R270): `taken` is what pends at the port after the step, and `kept` is what pends there where the step is held. -/

/-- `HOST.SEND` of the request `r` (46_host.md R251). -/
def sendStep (r : SendReq) (taken kept : List SendReq) (s : State) : Result :=
  if r.payload.length > s.cfg.maxPayload then
    ({ s with sendPort := taken }.emit .sendTooLong (.length r.payload.length)).finish .refused
  else if egressFull s then { s with sendPort := kept }.hold
  else ({ s with sendPort := taken }.enqEgress (.data r)).finish .queued

/-- `HOST.RECV` of one request (46_host.md R252). -/
def recvStep (taken kept : Nat) (s : State) : Result :=
  match s.ingress with
  | f :: _ => { s with recvPort := taken }.deqIngress.finish (.frame f)
  | [] => { s with recvPort := kept }.hold

/-! ## Receiver -/

/-- The Ack of a unicast frame; "Broadcast frames are never acknowledged" (45_receiver.md R229, R230). -/
def State.acknowledge (s : State) (f : DataFrame) : State :=
  if unicast s f then s.enqEgress (.ackOut s.cfg.deviceId f.source f.ackBit) else s

/-- What an outcome of `RX.UNIT u` writes (45_receiver.md R222 to R230). -/
def applyVerdict (s : State) (u : Bytes) : Verdict → State
  | .ackDropChk a => s.drop .ackChk (.sums a.checksum (ackSum a.source a.destination a.number))
  | .ackDropAddr a => s.drop .ackMisaddr (.ack a)
  | .ackDropFull a => s.drop .pendingFull (.ack a)
  | .ackAccept a => s.insertAck a
  | .frameDropLen reason => s.drop (lenCode reason) (lenInfo reason u)
  | .frameDropChk which f => s.drop (chkCode which) (chkInfo which f)
  | .frameDropAddr f => s.drop .frameMisaddr (.header (headerOf f))
  | .frameDup f => (s.emit .dupFrame (.header (headerOf f))).acknowledge f
  | .frameNew f => ((s.recordSeen f.source f.ackBit).enqIngress f).acknowledge f

/-- `RX.UNIT u`: the state its outcome leaves, or nothing while the outcome is held (45_receiver.md R220, R231). -/
def receiveUnit (s : State) (u : Bytes) : Option State :=
  if verdictHeld s (classify s u) then none else some (applyVerdict s u (classify s u))

/-! ## Unstuffer (43_byte_transport.md R172 to R176) -/

/-- What is left of `rx_stream` after consuming `b`, or nothing where `b` is not its next byte (10_state.md R36: "consumed one
byte per `BT.RXBYTE` step in order"). -/
def takeRx (s : State) (b : Byte) : Option Bytes :=
  match s.rxStream with
  | [] => none
  | c :: rest => if c = b then some rest else none

/-- A step that consumes `b`, `rest` being what `rx_stream` holds after it; held while `b` is not the next byte. -/
def withByte (s : State) (b : Byte) (k : Bytes → Result) : Result :=
  match takeRx s b with
  | some rest => k rest
  | none => s.hold

/-- Case escaped literal (43_byte_transport.md R173). -/
def rxEscaped (s : State) (b : Byte) (rest : Bytes) : Result :=
  { s with rxStream := rest, rxBuf := s.rxBuf ++ [b], rxEsc := false }.finish .void

/-- Case escape prefix (43_byte_transport.md R174). -/
def rxPrefix (s : State) (rest : Bytes) : Result :=
  { s with rxStream := rest, rxEsc := true }.finish .void

/-- Case terminator (43_byte_transport.md R175): the unit is handled in the same step; while its outcome is held the
byte is not consumed and `rx_buf` keeps the unit. -/
def rxTerminator (s : State) (rest : Bytes) : Result :=
  match receiveUnit { s with rxStream := rest, rxBuf := [] } s.rxBuf with
  | some t => t.finish .void
  | none => s.hold

/-- Case plain literal (43_byte_transport.md R176). -/
def rxLiteral (s : State) (b : Byte) (rest : Bytes) : Result :=
  { s with rxStream := rest, rxBuf := s.rxBuf ++ [b] }.finish .void

/-! ## The step that completes a unit (20_memory.md R62 (d)) -/

/-- The step of the `FLAG` that ends a unit: enabled when it is the next byte and not escaped. -/
def flagStep (s : State) : Result :=
  if s.rxEsc then s.hold else withByte s Config.flag (rxTerminator s)

/-- `RX.UNIT u`: "a unit is processed in the same step as the `FLAG` byte that ends it" (20_memory.md R62 (d)), so this is that
step, enabled when `u` is the unit it completes (log 11). -/
def unitStep (s : State) (u : Bytes) : Result :=
  if s.rxBuf = u then flagStep s else s.hold

/-- One outcome of `RX.UNIT u`: the same step, enabled when the dispatch of 45_receiver.md R220 gives that outcome
for `u` (log 11). -/
def outcomeStep (s : State) (u : Bytes) (v : Verdict) : Result :=
  if classify s u = v then unitStep s u else s.hold

end Sys2Proof.Machine
end

