-- ==== Sys2Proof/Machine/AckCodec.lean ====
section
/-! DEFINITION. The acknowledgement codec's operations (42_ack_codec.md R161 to R163): pure. -/

namespace Sys2Proof.Machine

/-- `ACK.ENCODE source, destination, number` (42_ack_codec.md R161). -/
def execAckEncode (source destination number : Byte) (s : State) : Result :=
  s.finish (.bytes (ackEncode source destination number))

/-- `ACK.DECODE u` (42_ack_codec.md R162). -/
def execAckDecode (u : Bytes) (s : State) : Result :=
  match ackDecode u with
  | some a => s.finish (.ack a)
  | none => s.finish .notAckSize

/-- `ACK.VERIFY a` (42_ack_codec.md R163). -/
def execAckVerify (a : AckRec) (s : State) : Result := s.finish (.truth (ackVerify a))

end Sys2Proof.Machine
end

