-- ==== Sys2Proof/Machine/Checksum.lean ====
section
/-! DEFINITION. The checksum engine's operations (40_checksum.md R121 to R124). -/

namespace Sys2Proof.Machine

/-- `CHK.INIT` (40_checksum.md R121). -/
def execChkInit (s : State) : Result := { s with acc := 0 }.finish .void

/-- `CHK.ADD v` (40_checksum.md R122). -/
def execChkAdd (v : Half) (s : State) : Result := { s with acc := chkAdd s.acc v }.finish .void

/-- `CHK.FINAL`: "`acc` is not changed" (40_checksum.md R123). -/
def execChkFinal (s : State) : Result := s.finish (.sum (chkFinal s.acc))

/-- `CHK.SUM values` (40_checksum.md R124): "State written: none outside the engine", and its accumulator is its own
(10_state.md R35; log 7). -/
def execChkSum (values : List Half) (s : State) : Result := s.finish (.sum (chkSum values))

end Sys2Proof.Machine
end

