-- ==== Sys2Proof/Machine/FrameCodec.lean ====
section
/-! DEFINITION. The frame codec's operations (41_frame_codec.md R141 to R144): pure, they write no state of the card. -/

namespace Sys2Proof.Machine

/-- `FRM.ENCODE` (41_frame_codec.md R141). For a payload longer than MAX_PAYLOAD the operation "is not defined": the
result is a free value, and one is used up (log 13). -/
def execFrmEncode (source destination ackBit : Byte) (payload : Bytes) (s : State) : Result :=
  if payload.length ≤ s.cfg.maxPayload then
    s.finish (.encoded (frmEncode source destination ackBit payload) (makeFrame source destination ackBit payload))
  else
    { s with freeCount := s.freeCount + 1 }.finish (.encoded (Config.freeUnit s.freeCount) (Config.freeFrame s.freeCount))

/-- `FRM.DECODE u` (41_frame_codec.md R142). -/
def execFrmDecode (u : Bytes) (s : State) : Result :=
  match frmDecode s.cfg u with
  | .ok f => s.finish (.frame f)
  | .error reason => s.finish (.invalid reason)

/-- `FRM.VERIFY_HDR f` (41_frame_codec.md R143). -/
def execFrmVerifyHdr (f : DataFrame) (s : State) : Result := s.finish (.truth (frmVerifyHdr f))

/-- `FRM.VERIFY_PAY f` (41_frame_codec.md R144). -/
def execFrmVerifyPay (f : DataFrame) (s : State) : Result := s.finish (.truth (frmVerifyPay f))

end Sys2Proof.Machine
end

