-- ==== Sys2Proof/Machine/HostPorts.lean ====
section
/-! DEFINITION. The host ports with the requests pending there (60_exceptions.md R270), time, the supply of received bytes
and reset (46_host.md R251 to R256). -/

namespace Sys2Proof.Machine

/-- `HOST.SEND destination, payload` (46_host.md R251): a new request; where it is held it joins those pending. -/
def execHostSend (destination : Byte) (payload : Bytes) (s : State) : Result :=
  sendStep ⟨destination, payload⟩ s.sendPort (s.sendPort ++ [⟨destination, payload⟩]) s

/-- `HOST.RECV` (46_host.md R252): a new request; where it is held it joins those pending. -/
def execHostRecv (s : State) : Result := recvStep s.recvPort (s.recvPort + 1) s

/-- The step of a request that pends at its port: taken from the port once its guard holds, pending further where it does not
(60_exceptions.md R270; log 27). With no such request there is no step to take. -/
def portStep (p : PortStep) (s : State) : Result :=
  match p with
  | .send k =>
    match s.sendPort[k]? with
    | some r => sendStep r (s.sendPort.eraseIdx k) s.sendPort s
    | none => s.hold
  | .recv => if s.recvPort = 0 then s.hold else recvStep (s.recvPort - 1) s.recvPort s

/-- `ENV.TICK` (46_host.md R254). -/
def execEnvTick (s : State) : Result := { s with now := s.now + 1 }.finish .void

/-- What the environment does to the bytes not yet consumed: "remove bytes not yet consumed (loss) or alter them (noise)",
or make one more available (46_host.md R255). An index past the end meets no byte and changes nothing. -/
def mediumStep (e : MediumEvent) (s : State) : State :=
  match e with
  | .supply b => { s with rxStream := s.rxStream ++ [b] }
  | .remove k => { s with rxStream := s.rxStream.eraseIdx k }
  | .alter k b => { s with rxStream := s.rxStream.set k b }

/-- `RESET` with the configuration input `c` (46_host.md R256): every register takes its reset value, and the three
sequences are "empty so far" (10_state.md R36); "Whatever was queued, pending or in flight is lost without trace", requests
pending at the host ports among it (log 27). The order of the steps to come and the count of free values are no state of the
card and stay (log 20). An illegal configuration is refused: the answer says so and nothing changes (10_state.md R24;
log 9). -/
def execReset (c : Configuration) (s : State) : Result :=
  if c.legal then
    { State.resetWith c with schedule := s.schedule, freeCount := s.freeCount }.finish .void
  else s.finish .refused

end Sys2Proof.Machine
end

