-- ==== Sys2Proof/Machine/Receiver.lean ====
section
/-! DEFINITION. The Receiver's operations (45_receiver.md R220 to R230): `RX.UNIT` and its outcomes, each the step of the
`FLAG` that completes the unit its operand gives (20_memory.md R62 (d); log 11), and the two unit formats, which are such units
(30_encoding.md R88, R90; log 12). -/

namespace Sys2Proof.Machine

/-- `RX.UNIT u` (45_receiver.md R220). -/
def execRxUnit (u : Bytes) (s : State) : Result := unitStep s u

/-- `RX.ACK_ACCEPT a` (45_receiver.md R224). -/
def execRxAckAccept (a : AckRec) (s : State) : Result := outcomeStep s (ackUnit a) (.ackAccept a)

/-- `RX.ACK_DROP_CHK` on the Ack `a` (45_receiver.md R222). -/
def execRxAckDropChk (a : AckRec) (s : State) : Result := outcomeStep s (ackUnit a) (.ackDropChk a)

/-- `RX.ACK_DROP_ADDR` on the Ack `a` (45_receiver.md R223). -/
def execRxAckDropAddr (a : AckRec) (s : State) : Result := outcomeStep s (ackUnit a) (.ackDropAddr a)

/-- `RX.ACK_DROP_FULL` on the Ack `a` (45_receiver.md R225). -/
def execRxAckDropFull (a : AckRec) (s : State) : Result := outcomeStep s (ackUnit a) (.ackDropFull a)

/-- `RX.FRAME_DROP_LEN reason` on the unit `u` (45_receiver.md R226). -/
def execRxFrameDropLen (reason : LenReason) (u : Bytes) (s : State) : Result :=
  outcomeStep s u (.frameDropLen reason)

/-- `RX.FRAME_DROP_CHK which` on the frame `f` (45_receiver.md R227). -/
def execRxFrameDropChk (which : CheckWhich) (f : DataFrame) (s : State) : Result :=
  outcomeStep s (frameUnit f) (.frameDropChk which f)

/-- `RX.FRAME_DROP_ADDR` on the frame `f` (45_receiver.md R228). -/
def execRxFrameDropAddr (f : DataFrame) (s : State) : Result := outcomeStep s (frameUnit f) (.frameDropAddr f)

/-- `RX.FRAME_DUP f` (45_receiver.md R229). -/
def execRxFrameDup (f : DataFrame) (s : State) : Result := outcomeStep s (frameUnit f) (.frameDup f)

/-- `RX.FRAME_NEW f` (45_receiver.md R230). -/
def execRxFrameNew (f : DataFrame) (s : State) : Result := outcomeStep s (frameUnit f) (.frameNew f)

/-- `U.ACK`: a unit of format `A` is completed and handled (30_encoding.md R82, R90). -/
def execUAck (a : AckRec) (s : State) : Result := unitStep s (ackUnit a)

/-- `U.DATA`: a unit of format `F` is completed and handled (30_encoding.md R81, R90). -/
def execUData (f : DataFrame) (s : State) : Result := unitStep s (frameUnit f)

end Sys2Proof.Machine
end

