-- ==== Sys2Proof/Machine/Transmitter.lean ====
section
/-! DEFINITION. The Transmitter's steps (44_transmitter.md R191 to R199). A step whose guard does not hold is held. -/

namespace Sys2Proof.Machine

/-- `Deq` of an `AckOut` and `Transmit(ACK.ENCODE)`: the effect `TX.DEQ_ACK` and `TX.BYPASS_ACK` share
(44_transmitter.md R191, R194). -/
def sendAck (s : State) (source destination number : Byte) : State :=
  s.deqEgress.transmit (ackEncode source destination number)

/-- The frame `TX.DEQ_FRAME` and `TX.DEQ_BCAST` stamp: this card as source, the current sequence bit
(44_transmitter.md R192, R193). -/
def stamp (s : State) (r : SendReq) : DataFrame :=
  makeFrame s.cfg.deviceId r.destination s.nextAckToSend r.payload

/-- `TX.DEQ_ACK` (44_transmitter.md R191). -/
def execTxDeqAck (s : State) : Result :=
  match s.txState, s.egress with
  | .idle, .ackOut source destination number :: _ => (sendAck s source destination number).finish .void
  | _, _ => s.hold

/-- `TX.DEQ_FRAME` (44_transmitter.md R192). -/
def execTxDeqFrame (s : State) : Result :=
  match s.txState, s.egress with
  | .idle, .data r :: _ =>
    if r.destination ≠ s.cfg.broadcastAddr then
      ((s.deqEgress.transmit (frameUnit (stamp s r))).setTx (.awaitingAck (stamp s r) s.now 0)).finish .void
    else s.hold
  | _, _ => s.hold

/-- `TX.DEQ_BCAST` (44_transmitter.md R193): no wait, and the sequence bit is stamped but not flipped. -/
def execTxDeqBcast (s : State) : Result :=
  match s.txState, s.egress with
  | .idle, .data r :: _ =>
    if r.destination = s.cfg.broadcastAddr then (s.deqEgress.transmit (frameUnit (stamp s r))).finish .void
    else s.hold
  | _, _ => s.hold

/-- `TX.BYPASS_ACK` (44_transmitter.md R194): `tx_state` is unchanged. -/
def execTxBypassAck (s : State) : Result :=
  match s.txState, s.egress with
  | .awaitingAck _ _ _, .ackOut source destination number :: _ => (sendAck s source destination number).finish .void
  | _, _ => s.hold

/-- `TX.ACK_MATCH e` (44_transmitter.md R196). -/
def execTxAckMatch (e : AckRec) (s : State) : Result :=
  match s.txState with
  | .awaitingAck f _ _ =>
    if s.pendingAcks.contains e && genuine s f e then
      { (s.removeAck e).setTx .idle with nextAckToSend := 1 - s.nextAckToSend }.finish .void
    else s.hold
  | .idle => s.hold

/-- `TX.ACK_STALE e` (44_transmitter.md R197). -/
def execTxAckStale (e : AckRec) (s : State) : Result :=
  match s.txState with
  | .awaitingAck f _ _ =>
    if s.pendingAcks.contains e && stale s f e then ((s.removeAck e).emit .staleAck (.ack e)).finish .void
    else s.hold
  | .idle => s.hold

/-- `TX.RESEND` (44_transmitter.md R198): the unit of the frame in flight, not stamped again (log 14). -/
def execTxResend (s : State) : Result :=
  match s.txState with
  | .awaitingAck f t a =>
    if expired s t && decide (a < s.cfg.maxResend) && !genuinePending s f then
      (((s.transmit (frameUnit f)).emit .resend (.attempts (a + 1))).setTx (.awaitingAck f s.now (a + 1))).finish .void
    else s.hold
  | .idle => s.hold

/-- `TX.ABANDON` (44_transmitter.md R199). -/
def execTxAbandon (s : State) : Result :=
  match s.txState with
  | .awaitingAck f t a =>
    if expired s t && decide (a = s.cfg.maxResend) && !genuinePending s f then
      ((s.emit .abandon (.header (headerOf f))).setTx .idle).finish .void
    else s.hold
  | .idle => s.hold

end Sys2Proof.Machine
end

