-- ==== Sys2Proof/Machine/Transport.lean ====
section
/-! DEFINITION. The byte transport's operations (43_byte_transport.md R171, R172, R177) and the four wire-byte classes
that are its cases (R173 to R176). -/

namespace Sys2Proof.Machine

/-- `BT.SEND u`: the stuffed, terminated sequence; appending it to `tx_stream` is `Transmit`'s
(43_byte_transport.md R171). -/
def execBtSend (u : Bytes) (s : State) : Result := s.finish (.bytes (btSend u))

/-- `BT.RXBYTE b`: "exactly one of the four cases of rules R173 to R176, chosen by `rx_esc` and b"
(43_byte_transport.md R172). -/
def execBtRxbyte (b : Byte) (s : State) : Result :=
  withByte s b fun rest =>
    if s.rxEsc then rxEscaped s b rest
    else if b = Config.flag then rxTerminator s rest
    else if b = Config.esc then rxPrefix s rest
    else rxLiteral s b rest

/-- `BT.RECV` of a byte sequence: the unit its first terminator ends; with no unescaped terminator it "returns nothing
and the Receiver waits" (43_byte_transport.md R177; log 21). -/
def execBtRecv (input : Bytes) (s : State) : Result :=
  match btRecv input with
  | some (u, _) => s.finish (.bytes u)
  | none => s.hold

/-- `W.FLAG` (43_byte_transport.md R175): enabled under `rx_esc = false`. -/
def execWFlag (s : State) : Result := flagStep s

/-- `W.ESC` (43_byte_transport.md R174): enabled under `rx_esc = false`. -/
def execWEsc (s : State) : Result :=
  if s.rxEsc then s.hold else withByte s Config.esc fun rest => rxPrefix s rest

/-- `W.LITERAL b` (43_byte_transport.md R176): enabled under `rx_esc = false`, b neither `FLAG` nor `ESC`. -/
def execWLiteral (b : Byte) (s : State) : Result :=
  if s.rxEsc ∨ b = Config.flag ∨ b = Config.esc then s.hold else withByte s b fun rest => rxLiteral s b rest

/-- `W.ESCAPED b` (43_byte_transport.md R173): enabled under `rx_esc = true`, any b. -/
def execWEscaped (b : Byte) (s : State) : Result :=
  if s.rxEsc then withByte s b fun rest => rxEscaped s b rest else s.hold

end Sys2Proof.Machine
end

