-- ==== Sys2Proof/Machine/Dispatch.lean ====
section
/-! DEFINITION. One arm per constructor of `Instr`: the meaning of each operation. -/

namespace Sys2Proof.Machine

/-- The meaning of an operation. -/
def exec (i : Instr) (s : State) : Host.Outcome State Fault Refusal :=
  match i with
  | .chkInit => Sys2Proof.Machine.execChkInit s
  | .chkAdd v => Sys2Proof.Machine.execChkAdd v s
  | .chkFinal => Sys2Proof.Machine.execChkFinal s
  | .chkSum values => Sys2Proof.Machine.execChkSum values s
  | .frmEncode source destination ackBit payload => Sys2Proof.Machine.execFrmEncode source destination ackBit payload s
  | .frmDecode u => Sys2Proof.Machine.execFrmDecode u s
  | .frmVerifyHdr f => Sys2Proof.Machine.execFrmVerifyHdr f s
  | .frmVerifyPay f => Sys2Proof.Machine.execFrmVerifyPay f s
  | .ackEncode source destination number => Sys2Proof.Machine.execAckEncode source destination number s
  | .ackDecode u => Sys2Proof.Machine.execAckDecode u s
  | .ackVerify a => Sys2Proof.Machine.execAckVerify a s
  | .btSend u => Sys2Proof.Machine.execBtSend u s
  | .btRxbyte b => Sys2Proof.Machine.execBtRxbyte b s
  | .btRecv input => Sys2Proof.Machine.execBtRecv input s
  | .txDeqAck => Sys2Proof.Machine.execTxDeqAck s
  | .txDeqFrame => Sys2Proof.Machine.execTxDeqFrame s
  | .txDeqBcast => Sys2Proof.Machine.execTxDeqBcast s
  | .txBypassAck => Sys2Proof.Machine.execTxBypassAck s
  | .txAckMatch e => Sys2Proof.Machine.execTxAckMatch e s
  | .txAckStale e => Sys2Proof.Machine.execTxAckStale e s
  | .txResend => Sys2Proof.Machine.execTxResend s
  | .txAbandon => Sys2Proof.Machine.execTxAbandon s
  | .rxUnit u => Sys2Proof.Machine.execRxUnit u s
  | .rxAckAccept a => Sys2Proof.Machine.execRxAckAccept a s
  | .rxAckDropChk a => Sys2Proof.Machine.execRxAckDropChk a s
  | .rxAckDropAddr a => Sys2Proof.Machine.execRxAckDropAddr a s
  | .rxAckDropFull a => Sys2Proof.Machine.execRxAckDropFull a s
  | .rxFrameDropLen reason u => Sys2Proof.Machine.execRxFrameDropLen reason u s
  | .rxFrameDropChk which f => Sys2Proof.Machine.execRxFrameDropChk which f s
  | .rxFrameDropAddr f => Sys2Proof.Machine.execRxFrameDropAddr f s
  | .rxFrameDup f => Sys2Proof.Machine.execRxFrameDup f s
  | .rxFrameNew f => Sys2Proof.Machine.execRxFrameNew f s
  | .hostSend destination payload => Sys2Proof.Machine.execHostSend destination payload s
  | .hostRecv => Sys2Proof.Machine.execHostRecv s
  | .envTick => Sys2Proof.Machine.execEnvTick s
  | .reset config => Sys2Proof.Machine.execReset config s
  | .wFlag => Sys2Proof.Machine.execWFlag s
  | .wEsc => Sys2Proof.Machine.execWEsc s
  | .wLiteral b => Sys2Proof.Machine.execWLiteral b s
  | .wEscaped b => Sys2Proof.Machine.execWEscaped b s
  | .uAck a => Sys2Proof.Machine.execUAck a s
  | .uData f => Sys2Proof.Machine.execUData f s

end Sys2Proof.Machine
end

