-- ==== Sys2Proof/Machine/Step.lean ====
section
/-! DEFINITION. One step: the next operation of `schedule` is taken, or what the environment does to `rx_stream` next
(20_memory.md R62, 46_host.md R255; logs 1, 10), or the step of a request pending at a host port (60_exceptions.md R270;
log 27). -/

namespace Sys2Proof.Machine

/-- The refusal that bytes which are no operation and none of the steps beside the operations end in (log 15). -/
def refusalOf : Reject → Refusal
  | .nothing => .noOperation 0
  | .unknownIdentifier op => .noOperation op
  | .badOperands op => .noOperation op

/-- One step. With nothing scheduled no agent acts, and a wait changes no state (60_exceptions.md R280). -/
def step (s : State) : Host.Outcome State Fault Refusal :=
  match s.schedule with
  | [] => .next s
  | op :: rest =>
    match decode (op :: rest) with
    | .ok (i, left) => exec i { s with schedule := left }
    | .error why =>
      match takeMedium (op :: rest) with
      | some (e, left) => .next (mediumStep e { s with schedule := left })
      | none =>
        match takePort (op :: rest) with
        | some (p, left) => portStep p { s with schedule := left }
        | none => .refused (refusalOf why)

/-- `s` with the operation of a table word scheduled next: exactly the bytes it takes up stand in front of what was
scheduled. Bytes that are no operation are put there whole. -/
def State.withFetchWord (s : State) (nbits w : Nat) : State :=
  let laidOut := tableBytes nbits w
  match decode laidOut with
  | .ok (_, left) => { s with schedule := laidOut.take (laidOut.length - left.length) ++ s.schedule }
  | .error _ => { s with schedule := laidOut ++ s.schedule }

end Sys2Proof.Machine
end

