-- ==== Sys2Proof/Safety.lean ====
section
/-! DEFINITION. The terms claims are stated in: the invariant of 10_state.md R38, which agent takes an operation, runs of
operations, the Transmitter's reference poll, single-bit errors. -/

namespace Sys2Proof.Machine

/-! ## The invariant (10_state.md R38) -/

/-- A frame as it may stand in `ingress`: the length field fits, the length is within MAX_PAYLOAD, both checksums are
right (10_state.md R38 (d)). -/
def soundFrame (c : Configuration) (f : DataFrame) : Bool :=
  decide (f.payloadLength.toNat = f.payload.length) && decide (f.payload.length ≤ c.maxPayload) &&
  frmVerifyHdr f && frmVerifyPay f

/-- "In every reachable state" (10_state.md R38), with the legal configuration of R24, the accumulator's bound of
40_checksum.md R122, and what can pend at the send port. -/
structure Inv (s : State) : Prop where
  /-- R24. -/
  config : s.cfg.legal = true
  /-- R38 (a). -/
  bit : s.nextAckToSend = 0 ∨ s.nextAckToSend = 1
  /-- R38 (b). -/
  queuedData : ∀ r, EgressItem.data r ∈ s.egress → r.payload.length ≤ s.cfg.maxPayload
  /-- R38 (c). -/
  pending : ∀ e ∈ s.pendingAcks, e.destination = s.cfg.deviceId ∧ e.checksum = ackSum e.source e.destination e.number
  /-- R38 (d). -/
  delivered : ∀ f ∈ s.ingress, soundFrame s.cfg f = true ∧
    (f.destination = s.cfg.deviceId ∨ f.destination = s.cfg.broadcastAddr)
  /-- R38 (e), and R31: the frame is as `FRM.ENCODE` made it. -/
  inFlight : ∀ f t a, s.txState = .awaitingAck f t a →
    f.source = s.cfg.deviceId ∧ f.destination ≠ s.cfg.broadcastAddr ∧ f.ackBit = s.nextAckToSend ∧ t ≤ s.now ∧
    a ≤ s.cfg.maxResend ∧ f.payload.length ≤ s.cfg.maxPayload ∧
    f = makeFrame f.source f.destination f.ackBit f.payload
  /-- R38 (f). -/
  room : s.egress.length ≤ s.cfg.egressCap ∧ s.cfg.ingressCap.admits s.ingress.length = true ∧
    s.cfg.pendingCap.admits s.pendingAcks.length = true
  /-- 40_checksum.md R122: "`acc <= 0xFFFF` before and after". -/
  accumulator : s.acc.toNat ≤ 0xFFFF
  /-- 46_host.md R251: an over-long request is refused, so none pends. -/
  requests : ∀ r ∈ s.sendPort, r.payload.length ≤ s.cfg.maxPayload

/-! ## Completed units -/

/-- The next byte of `rx_stream` is the `FLAG` that ends the unit `u`; `rest` stands after it (43_byte_transport.md R175). -/
abbrev Completes (s : State) (u rest : Bytes) : Prop :=
  s.rxStream = Config.flag :: rest ∧ s.rxEsc = false ∧ s.rxBuf = u

/-! ## Agents (60_exceptions.md R275, 20_memory.md R63) -/

/-- The agent whose step an operation is; `none` for the pure functions, which are no step of an agent by themselves. -/
def agentOf : Instr → Option Agent
  | .hostSend _ _ | .hostRecv => some .host
  | .txDeqAck | .txDeqFrame | .txDeqBcast | .txBypassAck | .txAckMatch _ | .txAckStale _ | .txResend | .txAbandon =>
    some .tx
  | .btRxbyte _ | .wFlag | .wEsc | .wLiteral _ | .wEscaped _ | .uAck _ | .uData _
  | .rxUnit _ | .rxAckAccept _ | .rxAckDropChk _ | .rxAckDropAddr _ | .rxAckDropFull _
  | .rxFrameDropLen _ _ | .rxFrameDropChk _ _ | .rxFrameDropAddr _ | .rxFrameDup _ | .rxFrameNew _ => some .rx
  | .envTick | .reset _ => some .env
  | .chkInit | .chkAdd _ | .chkFinal | .chkSum _ | .frmEncode _ _ _ _ | .frmDecode _ | .frmVerifyHdr _ | .frmVerifyPay _
  | .ackEncode _ _ _ | .ackDecode _ | .ackVerify _ | .btSend _ | .btRecv _ => none

/-- The outcome operation that stands for a verdict on the unit `u` (45_receiver.md R220). -/
def outcomeInstr (u : Bytes) : Verdict → Instr
  | .ackDropChk a => .rxAckDropChk a
  | .ackDropAddr a => .rxAckDropAddr a
  | .ackDropFull a => .rxAckDropFull a
  | .ackAccept a => .rxAckAccept a
  | .frameDropLen reason => .rxFrameDropLen reason u
  | .frameDropChk which f => .rxFrameDropChk which f
  | .frameDropAddr f => .rxFrameDropAddr f
  | .frameDup f => .rxFrameDup f
  | .frameNew f => .rxFrameNew f

/-! ## Runs -/

/-- The operations `is`, one after the other, stopping where one gives no next state. -/
def execAll : List Instr → State → Result
  | [], s => .next s
  | i :: is, s =>
    match exec i s with
    | .next t => execAll is t
    | .fault r => .fault r
    | .refused r => .refused r

/-- The bytes of a stream consumed one by one (43_byte_transport.md R172). -/
def receiveAll (bytes : Bytes) (s : State) : Result := execAll (bytes.map .btRxbyte) s

/-- `n` ticks. -/
def ticks (n : Nat) : List Instr := List.replicate n .envTick

/-- The Transmitter's step at a poll, with PENDING_PICK's reference choice (44_transmitter.md R197, R200): pending entries
first, oldest first, then the head of `egress`, then the clock. Nothing of the machine uses it; it names one schedule. -/
def pollStep (s : State) : Option Instr :=
  match s.txState with
  | .awaitingAck f t a =>
    match oldestPending s (awaited s f) with
    | some e => if e.number = s.nextAckToSend then some (.txAckMatch e) else some (.txAckStale e)
    | none =>
      match s.egress with
      | .ackOut _ _ _ :: _ => some .txBypassAck
      | _ =>
        if expired s t then (if a < s.cfg.maxResend then some .txResend else some .txAbandon) else none
  | .idle =>
    match s.egress with
    | .ackOut _ _ _ :: _ => some .txDeqAck
    | .data r :: _ => if r.destination = s.cfg.broadcastAddr then some .txDeqBcast else some .txDeqFrame
    | [] => none

/-! ## Single-bit errors (40_checksum.md R130) -/

/-- A byte with bit `k` flipped. -/
def flipBitOfByte (b : Byte) (k : Nat) : Byte := b ^^^ BitVec.ofNat 8 (2 ^ k)

/-- A unit with bit `k % 8` of byte `k / 8` flipped. -/
def flipBit (u : Bytes) (k : Nat) : Bytes := u.modify (k / 8) fun b => flipBitOfByte b (k % 8)

/-- A unit that would be accepted as a frame: it decodes, and both verifications are true (41_frame_codec.md R145). -/
def acceptedFrame (c : Configuration) (u : Bytes) : Bool :=
  match frmDecode c u with
  | .ok f => frmVerifyHdr f && frmVerifyPay f
  | .error _ => false

end Sys2Proof.Machine
end

