-- ==== Sys2Proof/Certificates/Slice0/Obligations.lean ====
section
/-! DEFINITION. The statements for the provers. Each docstring names the rule of spec/ it formalises. A step that is held
is written out as the same state with `answer := .held` (the form is the model's, logs 3 and 4; a host request that is held joins its port, log 27); everything a next state
does not name is unchanged. -/

open Sys2Proof Sys2Proof.Machine

/-! ## Encodings -/

/-- Decoding the encoding of a well-formed operation gives it back, whatever bytes follow (the layout is the model's,
log 2; identifiers 30_encoding.md R110, units R81, R82). -/
def Obligations.DecodeOfEncodeIsTheOperation : Prop :=
  ∀ (i : Instr) (rest : Bytes), i.wellFormed = true → decode (encode i ++ rest) = .ok (i, rest)

/-- What the decoder reads is well formed, and the bytes it took are exactly its encoding: no operation has two
encodings (the layout is the model's, log 2). -/
def Obligations.DecodedBytesAreTheEncoding : Prop :=
  ∀ (bs : Bytes) (i : Instr) (rest : Bytes), decode bs = .ok (i, rest) → i.wellFormed = true ∧ bs = encode i ++ rest

/-- Identifiers and units written out from 30_encoding.md R110, R81, R82 decode to what they stand for. Where an operand follows
an identifier, or another identifier follows an operation, that layout is the model's (log 2). -/
def Obligations.SampleWordsDecode : Prop :=
  decode [0x10] = .ok (.chkInit, []) ∧
  decode [0x51] = .ok (.txDeqFrame, []) ∧
  decode [0x71, 0x72] = .ok (.hostRecv, [0x72]) ∧
  decode [0x41, 0x7E] = .ok (.btRxbyte 0x7E, []) ∧
  decode [0x74] = .error (.unknownIdentifier 0x74) ∧
  decodeUnit [0x02, 0x01, 0x00, 0xFF, 0xFC] = some (.uAck ⟨2, 1, 0, 0xFFFC⟩) ∧
  decodeUnit [0x01, 0x02, 0x00, 0x00, 0x02, 0xFF, 0xFA, 0x68, 0x69, 0xFF, 0x2E] =
    some (.uData ⟨1, 2, 0, 2, 0xFFFA, [0x68, 0x69], 0xFF2E⟩) ∧
  decodeUnit [0x01, 0x02, 0x00] = none

/-- 30_encoding.md R81, R82, R90: five bytes are an Ack and its fields are read off; any other unit has the DataFrame layout when
its length field is its length minus nine, and then its fields are read off. R90's bound MAX_UNIT is not read off the bytes: it
is tested where a unit is used, by `FRM.DECODE` (log 26; stated by `FrmDecodeHasOneOutcomePerUnit`). -/
def Obligations.UnitFormatsReadBack : Prop :=
  (∀ a : AckRec, decodeUnit (ackUnit a) = some (.uAck a)) ∧
  (∀ f : DataFrame, f.payloadLength.toNat = f.payload.length → decodeUnit (frameUnit f) = some (.uData f)) ∧
  (∀ (u : Bytes) (i : Instr), decodeUnit u = some i →
    (∃ a, i = .uAck a ∧ u = ackUnit a) ∨
    (∃ f, i = .uData f ∧ u = frameUnit f ∧ f.payloadLength.toNat = f.payload.length))

/-! ## The step -/

/-- One step is the operation at the front of `schedule`, taken on the state whose `schedule` has moved past it, or the step of a
request pending at a host port (60_exceptions.md R270; its form: log 27); bytes that are none of the steps are refused by name;
with nothing scheduled nothing changes (20_memory.md R62; logs 1, 15). 46_host.md R255: the environment makes a byte of any value available, removes one not yet consumed, or alters one, and
nothing else changes; that these events stand in `schedule` is the model's form (log 10). -/
def Obligations.StepTakesTheScheduledOperation : Prop :=
  (∀ (s : State) (i : Instr) (left : Bytes), decode s.schedule = .ok (i, left) →
    step s = exec i { s with schedule := left }) ∧
  (∀ (s : State) (b : Byte) (left : Bytes), s.schedule = encodeMedium (.supply b) ++ left →
    step s = .next { s with schedule := left, rxStream := s.rxStream ++ [b] }) ∧
  (∀ (s : State) (lost : Byte) (before behind left : Bytes), s.rxStream = before ++ lost :: behind →
    s.schedule = encodeMedium (.remove before.length) ++ left →
    step s = .next { s with schedule := left, rxStream := before ++ behind }) ∧
  (∀ (s : State) (b was : Byte) (before behind left : Bytes), s.rxStream = before ++ was :: behind →
    s.schedule = encodeMedium (.alter before.length b) ++ left →
    step s = .next { s with schedule := left, rxStream := before ++ b :: behind }) ∧
  (∀ (s : State) (p : PortStep) (left : Bytes), s.schedule = encodePort p ++ left →
    step s = portStep p { s with schedule := left }) ∧
  (∀ (s : State) (op : Byte) (rest : Bytes) (why : Reject), s.schedule = op :: rest → decode s.schedule = .error why →
    takeMedium s.schedule = none → takePort s.schedule = none → step s = .refused (.noOperation op)) ∧
  (∀ s : State, s.schedule = [] → step s = .next s)

/-! ## Checksum engine -/

/-- 40_checksum.md R121. -/
def Obligations.ChkInitClearsTheAccumulator : Prop :=
  ∀ s : State, exec .chkInit s = .next { s with acc := 0, answer := .void }

/-- 40_checksum.md R122, within its precondition `acc <= 0xFFFF`: the exact sum, one fold, and the bound kept. -/
def Obligations.ChkAddFoldsTheCarryBack : Prop :=
  ∀ (s : State) (v : Half), s.acc.toNat ≤ 0xFFFF →
    exec (.chkAdd v) s = .next
      { s with
        acc := BitVec.ofNat 32 (((s.acc.toNat + v.toNat) &&& 0xFFFF) + ((s.acc.toNat + v.toNat) >>> 16))
        answer := .void } ∧
    ((s.acc.toNat + v.toNat) &&& 0xFFFF) + ((s.acc.toNat + v.toNat) >>> 16) ≤ 0xFFFF

/-- 40_checksum.md R126: after one fold no further fold changes anything. -/
def Obligations.OneFoldPerElementIsEnough : Prop :=
  ∀ acc v : Nat, acc ≤ 0xFFFF → v ≤ 0xFFFF →
    acc + v ≤ 0x1FFFE ∧ ((acc + v) >>> 16 = 0 ∨ (acc + v) >>> 16 = 1) ∧
    fold (acc + v) = ((acc + v) &&& 0xFFFF) + ((acc + v) >>> 16) ∧ fold (acc + v) ≤ 0xFFFF ∧
    (∀ turns : Nat, foldWhile turns (fold (acc + v)) = fold (acc + v))

/-- 40_checksum.md R123. -/
def Obligations.ChkFinalComplementsTheAccumulator : Prop :=
  (∀ s : State, exec .chkFinal s = .next { s with answer := .sum ((~~~s.acc &&& 0xFFFF).setWidth 16) }) ∧
  (∀ acc : Acc, acc.toNat ≤ 0xFFFF → ((~~~acc &&& 0xFFFF).setWidth 16 : Half).toNat = 0xFFFF - acc.toNat)

/-- 40_checksum.md R124: `CHK.SUM` returns what `CHK.INIT`, one `CHK.ADD` per element and `CHK.FINAL` return, and writes
nothing; that it leaves `acc` alone is the model's reading (10_state.md R35; log 7). -/
def Obligations.ChkSumIsInitAddFinal : Prop :=
  ∀ (s : State) (vs : List Half), ∃ (a : Acc) (x : Half),
    execAll (.chkInit :: (vs.map .chkAdd ++ [.chkFinal])) s = .next { s with acc := a, answer := .sum x } ∧
    exec (.chkSum vs) s = .next { s with answer := .sum x }

/-- 40_checksum.md R127: with `T` the exact sum of the elements, the accumulator and the checksum in closed form. -/
def Obligations.ChecksumHasItsClosedForm : Prop :=
  ∀ vs : List Half,
    (vs.foldl chkAdd 0).toNat =
      (if (vs.map BitVec.toNat).sum = 0 then 0 else ((vs.map BitVec.toNat).sum - 1) % 65535 + 1) ∧
    (∀ s : State, ∃ a : Acc, exec (.chkSum vs) s = .next { s with
      acc := a
      answer := .sum (BitVec.ofNat 16
        (if (vs.map BitVec.toNat).sum = 0 then 0xFFFF else 0xFFFF - (((vs.map BitVec.toNat).sum - 1) % 65535 + 1))) }) ∧
    ((vs.map BitVec.toNat).sum ≤ 0xFFFF → (chkSum vs).toNat = 0xFFFF - (vs.map BitVec.toNat).sum)

/-- 40_checksum.md R128: permutations, inserted or removed zeros, and folding only at the end change no result. -/
def Obligations.ChecksumIgnoresOrderAndGrouping : Prop :=
  (∀ vs ws : List Half, vs.Perm ws → chkSum vs = chkSum ws) ∧
  (∀ vs ws : List Half, chkSum (vs ++ 0 :: ws) = chkSum (vs ++ ws)) ∧
  (∀ (vs : List Half) (turns : Nat), foldWhile turns (vs.map BitVec.toNat).sum ≤ 0xFFFF →
    (vs.foldl chkAdd 0).toNat = foldWhile turns (vs.map BitVec.toNat).sum) ∧
  chkSum [1, 2] = 0xFFFC ∧ chkSum [2, 1] = 0xFFFC ∧ chkSum [3] = 0xFFFC

/-- 40_checksum.md R129: which sequences give the accumulator 0 and which 0xFFFF, and the checksums 0xFFFF and 0 they
give; the two are not identified, by the sum or by verification. -/
def Obligations.TheTwoZerosStayApart : Prop :=
  (∀ vs : List Half, vs.foldl chkAdd 0 = 0 ↔ ∀ v ∈ vs, v = 0) ∧
  (∀ vs : List Half, (vs.foldl chkAdd 0).toNat = 0xFFFF ↔
    0 < (vs.map BitVec.toNat).sum ∧ 65535 ∣ (vs.map BitVec.toNat).sum) ∧
  (∀ vs : List Half, chkSum vs = 0xFFFF ↔ vs.foldl chkAdd 0 = 0) ∧
  (∀ vs : List Half, chkSum vs = 0 ↔ (vs.foldl chkAdd 0).toNat = 0xFFFF) ∧
  chkSum [] = 0xFFFF ∧ chkSum [0] = 0xFFFF ∧ chkSum [0xFFFF] = 0 ∧ chkSum [0xFFFF, 0xFFFF] = 0 ∧
  payloadSum (List.replicate 257 0xFF) = 0 ∧
  (∀ f : DataFrame, f.payloadChecksum = 0 → payloadSum f.payload = 0xFFFF → frmVerifyPay f = false) ∧
  (∀ f : DataFrame, f.payloadChecksum = 0xFFFF → payloadSum f.payload = 0 → frmVerifyPay f = false)

/-- 30_encoding.md R87: what the Ack checksum covers, its value, its range. -/
def Obligations.AckChecksumIsPlainComplement : Prop :=
  ∀ source destination number : Byte,
    ackSum source destination number =
      chkSum [source.setWidth 16, destination.setWidth 16, number.setWidth 16] ∧
    (ackSum source destination number).toNat = 0xFFFF - (source.toNat + destination.toNat + number.toNat) ∧
    0xFD02 ≤ (ackSum source destination number).toNat

/-! ## Frame codec -/

/-- 41_frame_codec.md R141: the unit byte by byte and the record it encodes. -/
def Obligations.FrmEncodeLaysOutTheFrame : Prop :=
  ∀ (s : State) (source destination ackBit : Byte) (payload : Bytes) (len hchk pchk : Half),
    payload.length ≤ s.cfg.maxPayload → s.cfg.maxPayload ≤ 65535 → len.toNat = payload.length →
    hchk = chkSum [source.setWidth 16, destination.setWidth 16, ackBit.setWidth 16, len] →
    pchk = chkSum (payload.map fun b => b.setWidth 16) →
    exec (.frmEncode source destination ackBit payload) s = .next
      { s with
        answer := .encoded
          ([source, destination, ackBit, hi8 len, lo8 len, hi8 hchk, lo8 hchk] ++ payload ++ [hi8 pchk, lo8 pchk])
          ⟨source, destination, ackBit, len, hchk, payload, pchk⟩ }

/-- The model's choice (log 13): where 41_frame_codec.md R141 leaves `FRM.ENCODE` undefined it completes with free values,
writes no state of the card, and the next such use takes other free values. -/
def Obligations.FrmEncodeOverLongIsFree : Prop :=
  ∀ (s : State) (source destination ackBit : Byte) (payload : Bytes), s.cfg.maxPayload < payload.length →
    exec (.frmEncode source destination ackBit payload) s = .next
      { s with
        freeCount := s.freeCount + 1
        answer := .encoded (Config.freeUnit s.freeCount) (Config.freeFrame s.freeCount) }

/-- 41_frame_codec.md R142: every unit of nine bytes or more is seven header bytes, a payload and two more bytes; each
unit has one outcome. -/
def Obligations.FrmDecodeHasOneOutcomePerUnit : Prop :=
  (∀ (s : State) (u : Bytes), u.length < 9 → exec (.frmDecode u) s = .next { s with answer := .invalid .tooShort }) ∧
  (∀ u : Bytes, 9 ≤ u.length → ∃ b0 b1 b2 b3 b4 b5 b6 payload c0 c1,
    u = [b0, b1, b2, b3, b4, b5, b6] ++ payload ++ [c0, c1]) ∧
  (∀ (s : State) (b0 b1 b2 b3 b4 b5 b6 : Byte) (payload : Bytes) (c0 c1 : Byte),
    exec (.frmDecode ([b0, b1, b2, b3, b4, b5, b6] ++ payload ++ [c0, c1])) s = .next
      { s with
        answer :=
          if payload.length > s.cfg.maxPayload then .invalid .tooLong
          else if b3.toNat * 256 + b4.toNat ≠ payload.length then .invalid .lengthMismatch
          else .frame ⟨b0, b1, b2, be16 b3 b4, be16 b5 b6, payload, be16 c0 c1⟩ })

/-- 41_frame_codec.md R143, R144, 42_ack_codec.md R163: recompute and compare. -/
def Obligations.VerificationRecomputesAndCompares : Prop :=
  (∀ (s : State) (f : DataFrame), exec (.frmVerifyHdr f) s = .next { s with answer := .truth (decide
    (f.headerChecksum =
      chkSum [f.source.setWidth 16, f.destination.setWidth 16, f.ackBit.setWidth 16, f.payloadLength])) }) ∧
  (∀ (s : State) (f : DataFrame), exec (.frmVerifyPay f) s = .next { s with answer := .truth (decide
    (f.payloadChecksum = chkSum (f.payload.map fun b => b.setWidth 16))) }) ∧
  (∀ (s : State) (a : AckRec), exec (.ackVerify a) s = .next { s with answer := .truth (decide
    (a.checksum = chkSum [a.source.setWidth 16, a.destination.setWidth 16, a.number.setWidth 16])) })

/-- 41_frame_codec.md R146: encode then decode gives the record, verified; a sound frame has one encoding. -/
def Obligations.FrameRoundTrip : Prop :=
  (∀ (c : Configuration) (source destination ackBit : Byte) (payload : Bytes),
    payload.length ≤ c.maxPayload → c.maxPayload ≤ 65535 →
    frmDecode c (frmEncode source destination ackBit payload) = .ok (makeFrame source destination ackBit payload) ∧
    frmVerifyHdr (makeFrame source destination ackBit payload) = true ∧
    frmVerifyPay (makeFrame source destination ackBit payload) = true ∧
    (makeFrame source destination ackBit payload).source = source ∧
    (makeFrame source destination ackBit payload).destination = destination ∧
    (makeFrame source destination ackBit payload).ackBit = ackBit ∧
    (makeFrame source destination ackBit payload).payload = payload) ∧
  (∀ (c : Configuration) (u : Bytes) (f : DataFrame),
    frmDecode c u = .ok f → frmVerifyHdr f = true → frmVerifyPay f = true →
    frmEncode f.source f.destination f.ackBit f.payload = u ∧
    makeFrame f.source f.destination f.ackBit f.payload = f)

/-! ## Acknowledgement codec -/

/-- 42_ack_codec.md R161, R162. -/
def Obligations.AckCodecLaysOutTheAck : Prop :=
  (∀ (s : State) (source destination number : Byte) (c : Half),
    c = chkSum [source.setWidth 16, destination.setWidth 16, number.setWidth 16] →
    exec (.ackEncode source destination number) s = .next
      { s with answer := .bytes [source, destination, number, hi8 c, lo8 c] }) ∧
  (∀ (s : State) (b0 b1 b2 b3 b4 : Byte), exec (.ackDecode [b0, b1, b2, b3, b4]) s = .next
    { s with answer := .ack ⟨b0, b1, b2, be16 b3 b4⟩ }) ∧
  (∀ (s : State) (u : Bytes), u.length ≠ 5 → exec (.ackDecode u) s = .next { s with answer := .notAckSize })

/-- 42_ack_codec.md R164: round trip, detection of every single-bit error, and the exchange that is not detected. -/
def Obligations.AckRoundTripAndSingleBitErrors : Prop :=
  (∀ source destination number : Byte,
    ackDecode (ackEncode source destination number) = some (makeAck source destination number) ∧
    ackVerify (makeAck source destination number) = true ∧
    (makeAck source destination number).source = source ∧
    (makeAck source destination number).destination = destination ∧
    (makeAck source destination number).number = number) ∧
  (∀ (source destination number : Byte) (k : Nat), k < 40 →
    ∃ a, ackDecode (flipBit (ackEncode source destination number) k) = some a ∧ ackVerify a = false) ∧
  (∀ a : AckRec, ackVerify { a with source := a.destination, destination := a.source } = ackVerify a)

/-- 40_checksum.md R130: a frame unit with any one bit flipped is not accepted: it does not decode or a verification is
false. -/
def Obligations.SingleBitErrorsAreDetected : Prop :=
  ∀ (c : Configuration) (source destination ackBit : Byte) (payload : Bytes),
    payload.length ≤ c.maxPayload → c.maxPayload ≤ 65535 →
    acceptedFrame c (frmEncode source destination ackBit payload) = true ∧
    ∀ k, k < 8 * (frmEncode source destination ackBit payload).length →
      acceptedFrame c (flipBit (frmEncode source destination ackBit payload) k) = false

/-! ## Byte transport -/

/-- 43_byte_transport.md R171: the stuffed, terminated sequence and its length. -/
def Obligations.BtSendStuffsAndTerminates : Prop :=
  ∀ (s : State) (u : Bytes), ∃ out : Bytes,
    exec (.btSend u) s = .next { s with answer := .bytes out } ∧
    out = u.flatMap (fun b => if b = 0x7E ∨ b = 0x7D then [0x7D, b] else [b]) ++ [0x7E] ∧
    out.length = u.length + (u.filter fun b => b = 0x7E ∨ b = 0x7D).length + 1

/-- 43_byte_transport.md R177, R178 (a), 30_encoding.md R95: on every input `BT.RECV` returns the unit its first unescaped
terminator ends, or waits where there is none (the form of waiting: log 3); it follows the four cases of R173 to R176 byte by
byte; it is what `BT.RXBYTE` over the same bytes hands to `RX.UNIT`; and it undoes `BT.SEND`, whatever follows. -/
def Obligations.BtRecvUndoesBtSend : Prop :=
  (∀ (s : State) (input : Bytes), btRecvFrom [] false input = none →
    exec (.btRecv input) s = .next { s with answer := .held }) ∧
  (∀ (s : State) (input u rest : Bytes), btRecvFrom [] false input = some (u, rest) →
    exec (.btRecv input) s = .next { s with answer := .bytes u }) ∧
  (∀ (buf rest : Bytes) (escaped : Bool), btRecvFrom buf escaped [] = none ∧
    (∀ b : Byte, btRecvFrom buf true (b :: rest) = btRecvFrom (buf ++ [b]) false rest) ∧
    btRecvFrom buf false (0x7D :: rest) = btRecvFrom buf true rest ∧
    btRecvFrom buf false (0x7E :: rest) = some (buf, rest) ∧
    (∀ b : Byte, b ≠ 0x7E → b ≠ 0x7D → btRecvFrom buf false (b :: rest) = btRecvFrom (buf ++ [b]) false rest)) ∧
  (∀ (s : State) (consumed u rest : Bytes), btRecvFrom [] false (consumed ++ rest) = some (u, rest) →
    s.rxStream = consumed ++ rest → s.rxBuf = [] → s.rxEsc = false →
    receiveAll consumed s = exec (.rxUnit u) { s with rxStream := 0x7E :: rest, rxBuf := u }) ∧
  (∀ u rest : Bytes, btRecvFrom [] false (btSend u ++ rest) = some (u, rest)) ∧
  (∀ u : Bytes, btRecvFrom [] false (u.flatMap stuffByte) = none ∧ btRecvFrom [] false (u.flatMap stuffByte ++ [0x7D]) = none) ∧
  btRecvFrom [] false [0x01, 0x7D, 0x02, 0x00, 0xFF, 0xFC, 0x7E] = some ([0x01, 0x02, 0x00, 0xFF, 0xFC], [])

/-- 43_byte_transport.md R173, R174, R176: escaped literal, escape prefix, plain literal, as `BT.RXBYTE` and as wire
classes. -/
def Obligations.LiteralsAndEscapesAreUnstuffed : Prop :=
  (∀ (s : State) (b : Byte) (rest : Bytes), s.rxStream = b :: rest → s.rxEsc = true →
    ∀ i, (i = .btRxbyte b ∨ i = .wEscaped b) → exec i s = .next { s with
      rxStream := rest, rxBuf := s.rxBuf ++ [b], rxEsc := false, answer := .void }) ∧
  (∀ (s : State) (rest : Bytes), s.rxStream = 0x7D :: rest → s.rxEsc = false →
    ∀ i, (i = .btRxbyte 0x7D ∨ i = .wEsc) → exec i s = .next { s with
      rxStream := rest, rxEsc := true, answer := .void }) ∧
  (∀ (s : State) (b : Byte) (rest : Bytes), s.rxStream = b :: rest → s.rxEsc = false → b ≠ 0x7E → b ≠ 0x7D →
    ∀ i, (i = .btRxbyte b ∨ i = .wLiteral b) → exec i s = .next { s with
      rxStream := rest, rxBuf := s.rxBuf ++ [b], answer := .void })

/-- 43_byte_transport.md R175: the terminator is the unit's handling on a cleared `rx_buf`, in one step; while the unit's
outcome is held nothing changes: the byte stays next, `rx_buf` keeps the unit, and no later byte is consumed. What each outcome
writes is stated outcome by outcome below. -/
def Obligations.TerminatorHandlesTheUnit : Prop :=
  ∀ (s : State) (u rest : Bytes), s.rxStream = 0x7E :: rest → s.rxEsc = false → s.rxBuf = u →
    (verdictHeld s (classify s u) = false → ∃ t,
      t = { applyVerdict { s with rxStream := rest, rxBuf := [] } u (classify s u) with answer := .void } ∧
      t.rxStream = rest ∧ t.rxBuf = [] ∧ t.rxEsc = false ∧
      ∀ i, (i = .btRxbyte 0x7E ∨ i = .wFlag ∨ i = .rxUnit u) → exec i s = .next t) ∧
    (verdictHeld s (classify s u) = true →
      exec .wFlag s = .next { s with answer := .held } ∧ exec (.rxUnit u) s = .next { s with answer := .held } ∧
      ∀ b, exec (.btRxbyte b) s = .next { s with answer := .held })

/-- 43_byte_transport.md R172, 30_encoding.md R83: `BT.RXBYTE b` is exactly the wire class of `b` under `rx_esc`; another
class of the byte waits, and so does every byte while another is next or none is (10_state.md R36: in order; the form of waiting:
log 3). -/
def Obligations.RxByteIsOneOfFourCases : Prop :=
  (∀ (s : State) (b : Byte), exec (.btRxbyte b) s = exec (decodeWire s.rxEsc b) s) ∧
  (∀ b : Byte, decodeWire true b = .wEscaped b ∧ decodeWire false 0x7E = .wFlag ∧ decodeWire false 0x7D = .wEsc ∧
    (b ≠ 0x7E → b ≠ 0x7D → decodeWire false b = .wLiteral b)) ∧
  (∀ s : State, s.rxEsc = true → exec .wFlag s = .next { s with answer := .held } ∧
    exec .wEsc s = .next { s with answer := .held } ∧
    ∀ b, exec (.wLiteral b) s = .next { s with answer := .held }) ∧
  (∀ (s : State) (b : Byte), s.rxEsc = false → exec (.wEscaped b) s = .next { s with answer := .held }) ∧
  (∀ (s : State) (b : Byte), (∀ rest, s.rxStream ≠ b :: rest) →
    exec (.btRxbyte b) s = .next { s with answer := .held })

/-- 43_byte_transport.md R175, R178 (a), (b): the stuffed bytes of a unit, consumed one by one from between two units, have exactly
the effect of the unit's handling at its terminator, whatever bytes follow, and leave the Receiver between two units; where the
outcome is held, everything but the terminator is consumed. -/
def Obligations.FramingDeliversTheUnit : Prop :=
  ∀ (s : State) (u rest : Bytes), s.rxStream = btSend u ++ rest → s.rxBuf = [] → s.rxEsc = false →
    receiveAll (btSend u) s = exec (.rxUnit u) { s with rxStream := 0x7E :: rest, rxBuf := u } ∧
    (verdictHeld s (classify s u) = false → ∃ t, receiveAll (btSend u) s = .next t ∧
      t.rxStream = rest ∧ t.rxBuf = [] ∧ t.rxEsc = false ∧ t.answer = .void) ∧
    (verdictHeld s (classify s u) = true →
      receiveAll (btSend u) s = .next { s with rxBuf := u, rxStream := 0x7E :: rest, answer := .held })

/-! ## Transmitter -/

/-- 44_transmitter.md R191, R194: an outbound Ack at the head of `egress` is transmitted, in `Idle` and while a frame
awaits its Ack; one behind a `Data` item is not transmitted by `TX.BYPASS_ACK`. -/
def Obligations.OutboundAcksAreTransmitted : Prop :=
  (∀ (s : State) (source destination number : Byte) (rest : List EgressItem),
    s.txState = .idle → s.egress = .ackOut source destination number :: rest →
    exec .txDeqAck s = .next { s with
      egress := rest, txStream := s.txStream ++ btSend (ackEncode source destination number), answer := .void }) ∧
  (∀ (s : State) (f : DataFrame) (t a : Nat) (source destination number : Byte) (rest : List EgressItem),
    s.txState = .awaitingAck f t a → s.egress = .ackOut source destination number :: rest →
    exec .txBypassAck s = .next { s with
      egress := rest, txStream := s.txStream ++ btSend (ackEncode source destination number), answer := .void }) ∧
  (∀ (s : State) (r : SendReq) (rest : List EgressItem), s.egress = .data r :: rest →
    exec .txBypassAck s = .next { s with answer := .held })

/-- 44_transmitter.md R192: stamp, transmit, await. -/
def Obligations.UnicastFrameIsSentAndAwaited : Prop :=
  ∀ (s : State) (r : SendReq) (rest : List EgressItem),
    s.txState = .idle → s.egress = .data r :: rest → r.destination ≠ s.cfg.broadcastAddr →
    exec .txDeqFrame s = .next { s with
      egress := rest
      txStream := s.txStream ++ btSend (frmEncode s.cfg.deviceId r.destination s.nextAckToSend r.payload)
      txState := .awaitingAck (makeFrame s.cfg.deviceId r.destination s.nextAckToSend r.payload) s.now 0
      answer := .void }

/-- 44_transmitter.md R193: stamp, transmit, stay in `Idle`, do not flip the bit. -/
def Obligations.BroadcastIsSentWithoutWaiting : Prop :=
  ∀ (s : State) (r : SendReq) (rest : List EgressItem),
    s.txState = .idle → s.egress = .data r :: rest → r.destination = s.cfg.broadcastAddr →
    exec .txDeqBcast s = .next { s with
      egress := rest
      txStream := s.txStream ++ btSend (frmEncode s.cfg.deviceId s.cfg.broadcastAddr s.nextAckToSend r.payload)
      answer := .void }

/-- 44_transmitter.md R196, with R195's `genuine` written out: one occurrence is consumed, the bit flips, `Idle`; expired
or not. And no other operation but `RESET` changes the bit. -/
def Obligations.GenuineAckEndsTheWait : Prop :=
  (∀ (s : State) (f : DataFrame) (t a : Nat) (e : AckRec),
    s.txState = .awaitingAck f t a → e ∈ s.pendingAcks →
    e.destination = s.cfg.deviceId → e.source = f.destination → e.number = s.nextAckToSend →
    exec (.txAckMatch e) s = .next { s with
      pendingAcks := s.pendingAcks.erase e, nextAckToSend := 1 - s.nextAckToSend, txState := .idle, answer := .void }) ∧
  (∀ (i : Instr) (s t : State), exec i s = .next t → t.nextAckToSend ≠ s.nextAckToSend →
    (∃ e, i = .txAckMatch e) ∨ (∃ c, i = .reset c))

/-- 44_transmitter.md R197, with R195's `stale` written out: the entry goes, the event is emitted, the wait goes on. -/
def Obligations.StaleAckIsDiscarded : Prop :=
  ∀ (s : State) (f : DataFrame) (t a : Nat) (e : AckRec),
    s.txState = .awaitingAck f t a → e ∈ s.pendingAcks →
    e.destination = s.cfg.deviceId → e.source = f.destination → e.number ≠ s.nextAckToSend →
    exec (.txAckStale e) s = .next { s with
      pendingAcks := s.pendingAcks.erase e, diag := s.diag ++ [⟨.staleAck, .ack e⟩], answer := .void }

/-- 44_transmitter.md R198: on expiry, with attempts left and no genuine Ack pending, the identical frame goes out again;
with none left the step is not enabled. The frame in flight is one `FRM.ENCODE` made (10_state.md R31), and its unit is
transmitted byte for byte. -/
def Obligations.TimeoutRetransmitsTheIdenticalFrame : Prop :=
  (∀ (s : State) (f : DataFrame) (t a : Nat),
    s.txState = .awaitingAck f t a → s.now - t ≥ s.cfg.timeoutTicks → a < s.cfg.maxResend →
    (∀ e ∈ s.pendingAcks, ¬(e.destination = s.cfg.deviceId ∧ e.source = f.destination ∧ e.number = s.nextAckToSend)) →
    f = makeFrame f.source f.destination f.ackBit f.payload →
    exec .txResend s = .next { s with
      txStream := s.txStream ++ btSend (frmEncode f.source f.destination f.ackBit f.payload)
      diag := s.diag ++ [⟨.resend, .attempts (a + 1)⟩]
      txState := .awaitingAck f s.now (a + 1)
      answer := .void }) ∧
  (∀ (s : State) (f : DataFrame) (t a : Nat), s.txState = .awaitingAck f t a → s.cfg.maxResend ≤ a →
    exec .txResend s = .next { s with answer := .held })

/-- 44_transmitter.md R199: on expiry, with no attempt left and no genuine Ack pending, the frame is given up; nothing is
transmitted and the bit is not flipped. The event records "the frame's header" (60_exceptions.md R261; its form as data: log 17). -/
def Obligations.ExhaustedFrameIsAbandoned : Prop :=
  ∀ (s : State) (f : DataFrame) (t a : Nat),
    s.txState = .awaitingAck f t a → s.now - t ≥ s.cfg.timeoutTicks → a = s.cfg.maxResend →
    (∀ e ∈ s.pendingAcks, ¬(e.destination = s.cfg.deviceId ∧ e.source = f.destination ∧ e.number = s.nextAckToSend)) →
    exec .txAbandon s = .next { s with
      diag := s.diag ++
        [⟨.abandon, .header ⟨f.source, f.destination, f.ackBit, f.payloadLength, f.headerChecksum⟩⟩]
      txState := .idle
      answer := .void }

/-- 44_transmitter.md R191 to R200: where the guard of a Transmitter step does not hold, the step waits (log 3), each guard
written out. -/
def Obligations.TransmitterWaitsOutsideItsGuards : Prop :=
  (∀ s : State, (¬∃ source destination number rest,
      s.txState = .idle ∧ s.egress = .ackOut source destination number :: rest) →
    exec .txDeqAck s = .next { s with answer := .held }) ∧
  (∀ s : State, (¬∃ r rest, s.txState = .idle ∧ s.egress = .data r :: rest ∧ r.destination ≠ s.cfg.broadcastAddr) →
    exec .txDeqFrame s = .next { s with answer := .held }) ∧
  (∀ s : State, (¬∃ r rest, s.txState = .idle ∧ s.egress = .data r :: rest ∧ r.destination = s.cfg.broadcastAddr) →
    exec .txDeqBcast s = .next { s with answer := .held }) ∧
  (∀ s : State, (¬∃ f t a source destination number rest,
      s.txState = .awaitingAck f t a ∧ s.egress = .ackOut source destination number :: rest) →
    exec .txBypassAck s = .next { s with answer := .held }) ∧
  (∀ (s : State) (e : AckRec), (¬∃ f t a, s.txState = .awaitingAck f t a ∧ e ∈ s.pendingAcks ∧
      e.destination = s.cfg.deviceId ∧ e.source = f.destination ∧ e.number = s.nextAckToSend) →
    exec (.txAckMatch e) s = .next { s with answer := .held }) ∧
  (∀ (s : State) (e : AckRec), (¬∃ f t a, s.txState = .awaitingAck f t a ∧ e ∈ s.pendingAcks ∧
      e.destination = s.cfg.deviceId ∧ e.source = f.destination ∧ e.number ≠ s.nextAckToSend) →
    exec (.txAckStale e) s = .next { s with answer := .held }) ∧
  (∀ s : State, (¬∃ f t a, s.txState = .awaitingAck f t a ∧ s.now - t ≥ s.cfg.timeoutTicks ∧ a < s.cfg.maxResend ∧
      ∀ e ∈ s.pendingAcks,
        ¬(e.destination = s.cfg.deviceId ∧ e.source = f.destination ∧ e.number = s.nextAckToSend)) →
    exec .txResend s = .next { s with answer := .held }) ∧
  (∀ s : State, (¬∃ f t a, s.txState = .awaitingAck f t a ∧ s.now - t ≥ s.cfg.timeoutTicks ∧ a = s.cfg.maxResend ∧
      ∀ e ∈ s.pendingAcks,
        ¬(e.destination = s.cfg.deviceId ∧ e.source = f.destination ∧ e.number = s.nextAckToSend)) →
    exec .txAbandon s = .next { s with answer := .held })

/-- 44_transmitter.md R190: the transitions of `tx_state`, over all operations, and each row of the table for a step that is
taken. Only `TX.DEQ_FRAME` enters a wait from `Idle`; a wait ends by `TX.ACK_MATCH` or `TX.ABANDON`, or goes on unchanged,
or restarts by `TX.RESEND`; `RESET` returns to `Idle`. In `Idle` with nothing queued every Transmitter step waits. -/
def Obligations.TransmitterTransitionsAreTheTable : Prop :=
  (∀ (i : Instr) (s t : State), exec i s = .next t → t.txState ≠ s.txState →
    (∃ f, i = .txDeqFrame ∧ s.txState = .idle ∧ t.txState = .awaitingAck f s.now 0) ∨
    (∃ e f t₀ a, i = .txAckMatch e ∧ s.txState = .awaitingAck f t₀ a ∧ t.txState = .idle) ∨
    (∃ f t₀ a, i = .txResend ∧ s.txState = .awaitingAck f t₀ a ∧ a < s.cfg.maxResend ∧
      t.txState = .awaitingAck f s.now (a + 1)) ∨
    (∃ f t₀ a, i = .txAbandon ∧ s.txState = .awaitingAck f t₀ a ∧ a = s.cfg.maxResend ∧ t.txState = .idle) ∨
    (∃ c, i = .reset c ∧ t.txState = .idle)) ∧
  (∀ (i : Instr) (s t : State), exec i s = .next t → t.answer = .void →
    (i = .txDeqAck ∨ i = .txDeqBcast → s.txState = .idle ∧ t.txState = .idle) ∧
    (i = .txDeqFrame → s.txState = .idle ∧ ∃ f, t.txState = .awaitingAck f s.now 0) ∧
    ((i = .txBypassAck ∨ ∃ e, i = .txAckStale e) →
      ∃ f t₀ a, s.txState = .awaitingAck f t₀ a ∧ t.txState = .awaitingAck f t₀ a) ∧
    ((∃ e, i = .txAckMatch e) → (∃ f t₀ a, s.txState = .awaitingAck f t₀ a) ∧ t.txState = .idle) ∧
    (i = .txResend → ∃ f t₀ a, s.txState = .awaitingAck f t₀ a ∧ a < s.cfg.maxResend ∧
      t.txState = .awaitingAck f s.now (a + 1)) ∧
    (i = .txAbandon → ∃ f t₀ a, s.txState = .awaitingAck f t₀ a ∧ a = s.cfg.maxResend ∧ t.txState = .idle)) ∧
  (∀ (i : Instr) (s : State), agentOf i = some .tx → s.txState = .idle → s.egress = [] →
    exec i s = .next { s with answer := .held })

/-- 44_transmitter.md R202: no step but `RESET` removes an entry of `pending_acks` unless it comes from the peer awaited. -/
def Obligations.AcksOfOtherPeersAreNotTouched : Prop :=
  ∀ (i : Instr) (s t : State) (e : AckRec), exec i s = .next t → (∀ c, i ≠ .reset c) → e ∈ s.pendingAcks →
    (∀ f t₀ a, s.txState = .awaitingAck f t₀ a → e.source ≠ f.destination) →
    s.pendingAcks.count e ≤ t.pendingAcks.count e

/-- 44_transmitter.md R203, 95_test_vectors.md S1.5: with no genuine Ack, over every choice of waits of TIMEOUT_TICKS ticks or more
and with nothing else in between, a frame is retransmitted MAX_RESEND times, byte for byte the same, then abandoned a wait after the
last; the bit, the queue and the pending Acks are as before. The abandonment records the header (60_exceptions.md R261; its
form: log 17). -/
def Obligations.RetriesAreBoundedThenAbandoned : Prop :=
  ∀ (s : State) (f : DataFrame) (t : Nat) (waits : List Nat) (last : Nat),
    s.txState = .awaitingAck f t 0 → t ≤ s.now → genuinePending s f = false →
    waits.length = s.cfg.maxResend → (∀ w ∈ waits, s.cfg.timeoutTicks ≤ w) → s.cfg.timeoutTicks ≤ last →
    execAll (waits.flatMap (fun w => ticks w ++ [.txResend]) ++ (ticks last ++ [.txAbandon])) s =
      .next { s with
        now := s.now + waits.sum + last
        txStream := s.txStream ++ (List.replicate s.cfg.maxResend (btSend (frameUnit f))).flatten
        diag := s.diag ++ (List.range s.cfg.maxResend).map (fun k => ⟨.resend, .attempts (k + 1)⟩) ++
          [⟨.abandon, .header (headerOf f)⟩]
        txState := .idle
        answer := .void }

/-- 44_transmitter.md R205: from every state of the invariant the Transmitter is idle with nothing queued, or after some
number of ticks one of its steps is enabled. R197, R200: the reference poll (oldest pending entry first, then the queue,
then the clock) takes only enabled steps, and none of the clock while a genuine Ack is pending. -/
def Obligations.TransmitterNeverStops : Prop :=
  (∀ s : State, Inv s →
    (s.txState = .idle ∧ s.egress = []) ∨
    ∃ (n : Nat) (i : Instr) (u t : State), agentOf i = some .tx ∧ execAll (ticks n) s = .next u ∧
      exec i u = .next t ∧ t.answer = .void) ∧
  (∀ (s : State) (i : Instr), Inv s → pollStep s = some i →
    (∃ t, exec i s = .next t ∧ t.answer = .void) ∧
    ∀ f t₀ a, s.txState = .awaitingAck f t₀ a → genuinePending s f = true → i ≠ .txResend ∧ i ≠ .txAbandon)

/-! ## Receiver -/

/-- 45_receiver.md R222 to R225: the four outcomes of a five-byte unit, at the `FLAG` that completes it (20_memory.md R62 (d)), as
the outcome's operation, as `RX.UNIT` of the unit, and as the byte. -/
def Obligations.AckUnitsHaveTheirOutcomes : Prop :=
  ∀ (s : State) (a : AckRec) (rest : Bytes), s.rxStream = 0x7E :: rest → s.rxEsc = false → s.rxBuf = ackUnit a →
    (a.checksum ≠ ackSum a.source a.destination a.number →
      ∀ i, (i = .rxAckDropChk a ∨ i = .rxUnit (ackUnit a) ∨ i = .btRxbyte 0x7E) → exec i s = .next { s with
        rxStream := rest, rxBuf := []
        diag := s.diag ++ [⟨.ackChk, .sums a.checksum (ackSum a.source a.destination a.number)⟩], answer := .void }) ∧
    (a.checksum = ackSum a.source a.destination a.number → a.destination ≠ s.cfg.deviceId →
      ∀ i, (i = .rxAckDropAddr a ∨ i = .rxUnit (ackUnit a) ∨ i = .btRxbyte 0x7E) → exec i s = .next { s with
        rxStream := rest, rxBuf := [], diag := s.diag ++ [⟨.ackMisaddr, .ack a⟩], answer := .void }) ∧
    (a.checksum = ackSum a.source a.destination a.number → a.destination = s.cfg.deviceId →
      s.cfg.pendingCap = .bounded s.pendingAcks.length →
      ∀ i, (i = .rxAckDropFull a ∨ i = .rxUnit (ackUnit a) ∨ i = .btRxbyte 0x7E) → exec i s = .next { s with
        rxStream := rest, rxBuf := [], diag := s.diag ++ [⟨.pendingFull, .ack a⟩], answer := .void }) ∧
    (a.checksum = ackSum a.source a.destination a.number → a.destination = s.cfg.deviceId →
      s.cfg.pendingCap ≠ .bounded s.pendingAcks.length →
      ∀ i, (i = .rxAckAccept a ∨ i = .rxUnit (ackUnit a) ∨ i = .btRxbyte 0x7E) → exec i s = .next { s with
        rxStream := rest, rxBuf := [], pendingAcks := s.pendingAcks ++ [a], answer := .void })

/-- 45_receiver.md R226, 60_exceptions.md R261: units of no legal length are dropped, at the `FLAG` that completes them, with their
code and information; nothing else is written. A unit is not five bytes long here. -/
def Obligations.UndecodableUnitsAreDropped : Prop :=
  ∀ (s : State) (u rest : Bytes), s.rxStream = 0x7E :: rest → s.rxEsc = false → s.rxBuf = u → u.length ≠ 5 →
    (u.length < 9 →
      ∀ i, (i = .rxFrameDropLen .tooShort u ∨ i = .rxUnit u ∨ i = .btRxbyte 0x7E) → exec i s = .next { s with
        rxStream := rest, rxBuf := [], diag := s.diag ++ [⟨.unitShort, .length u.length⟩], answer := .void }) ∧
    (u.length > s.cfg.maxPayload + 9 →
      ∀ i, (i = .rxFrameDropLen .tooLong u ∨ i = .rxUnit u ∨ i = .btRxbyte 0x7E) → exec i s = .next { s with
        rxStream := rest, rxBuf := [], diag := s.diag ++ [⟨.unitLong, .length u.length⟩], answer := .void }) ∧
    (∀ (b0 b1 b2 b3 b4 b5 b6 : Byte) (payload : Bytes) (c0 c1 : Byte),
      u = [b0, b1, b2, b3, b4, b5, b6] ++ payload ++ [c0, c1] →
      payload.length ≤ s.cfg.maxPayload → b3.toNat * 256 + b4.toNat ≠ payload.length →
      ∀ i, (i = .rxFrameDropLen .lengthMismatch u ∨ i = .rxUnit u ∨ i = .btRxbyte 0x7E) → exec i s = .next { s with
        rxStream := rest, rxBuf := []
        diag := s.diag ++ [⟨.lenMismatch, .lengths (b3.toNat * 256 + b4.toNat) payload.length⟩], answer := .void })

/-- 45_receiver.md R227, R228: corrupted and misaddressed frames are dropped, at the `FLAG` that completes them, with the event of
the first check that fails; nothing else is written. -/
def Obligations.CorruptedAndMisaddressedFramesAreDropped : Prop :=
  ∀ (s : State) (f : DataFrame) (rest : Bytes), s.rxStream = 0x7E :: rest → s.rxEsc = false → s.rxBuf = frameUnit f →
    f.payloadLength.toNat = f.payload.length → f.payload.length ≤ s.cfg.maxPayload →
    (f.headerChecksum ≠ headerSum f.source f.destination f.ackBit f.payloadLength →
      ∀ i, (i = .rxFrameDropChk .header f ∨ i = .rxUnit (frameUnit f) ∨ i = .btRxbyte 0x7E) → exec i s = .next { s with
        rxStream := rest, rxBuf := []
        diag := s.diag ++ [⟨.hdrChk, .sums f.headerChecksum
          (headerSum f.source f.destination f.ackBit f.payloadLength)⟩], answer := .void }) ∧
    (f.headerChecksum = headerSum f.source f.destination f.ackBit f.payloadLength →
      f.payloadChecksum ≠ payloadSum f.payload →
      ∀ i, (i = .rxFrameDropChk .payload f ∨ i = .rxUnit (frameUnit f) ∨ i = .btRxbyte 0x7E) → exec i s = .next { s with
        rxStream := rest, rxBuf := []
        diag := s.diag ++ [⟨.payChk, .sums f.payloadChecksum (payloadSum f.payload)⟩], answer := .void }) ∧
    (f.headerChecksum = headerSum f.source f.destination f.ackBit f.payloadLength →
      f.payloadChecksum = payloadSum f.payload →
      f.destination ≠ s.cfg.deviceId → f.destination ≠ s.cfg.broadcastAddr →
      ∀ i, (i = .rxFrameDropAddr f ∨ i = .rxUnit (frameUnit f) ∨ i = .btRxbyte 0x7E) → exec i s = .next { s with
        rxStream := rest, rxBuf := []
        diag := s.diag ++ [⟨.frameMisaddr, .header
          ⟨f.source, f.destination, f.ackBit, f.payloadLength, f.headerChecksum⟩⟩], answer := .void })

/-- 45_receiver.md R229: a duplicate is not delivered and not recorded, and a unicast one is acknowledged again, at the `FLAG` that
completes it. The event records "the header" (60_exceptions.md R261; its form as data: log 17). -/
def Obligations.DuplicateFramesAreAcknowledgedOnly : Prop :=
  ∀ (s : State) (f : DataFrame) (rest : Bytes), s.rxStream = 0x7E :: rest → s.rxEsc = false → s.rxBuf = frameUnit f →
    soundFrame s.cfg f = true →
    (f.destination = s.cfg.deviceId ∨ f.destination = s.cfg.broadcastAddr) → seen s f.source = some f.ackBit →
    (f.destination ≠ s.cfg.broadcastAddr → s.egress.length ≠ s.cfg.egressCap) →
    ∀ i, (i = .rxFrameDup f ∨ i = .rxUnit (frameUnit f) ∨ i = .btRxbyte 0x7E) → exec i s = .next { s with
      rxStream := rest
      rxBuf := []
      diag := s.diag ++ [⟨.dupFrame, .header
        ⟨f.source, f.destination, f.ackBit, f.payloadLength, f.headerChecksum⟩⟩]
      egress := if f.destination = s.cfg.broadcastAddr then s.egress
        else s.egress ++ [.ackOut s.cfg.deviceId f.source f.ackBit]
      answer := .void }

/-- 45_receiver.md R230: a new frame is recorded and delivered, and a unicast one is acknowledged, at the `FLAG` that completes it;
no event. -/
def Obligations.NewFramesAreDelivered : Prop :=
  ∀ (s : State) (f : DataFrame) (rest : Bytes), s.rxStream = 0x7E :: rest → s.rxEsc = false → s.rxBuf = frameUnit f →
    soundFrame s.cfg f = true →
    (f.destination = s.cfg.deviceId ∨ f.destination = s.cfg.broadcastAddr) → seen s f.source ≠ some f.ackBit →
    s.cfg.ingressCap ≠ .bounded s.ingress.length →
    (f.destination ≠ s.cfg.broadcastAddr → s.egress.length ≠ s.cfg.egressCap) →
    ∀ i, (i = .rxFrameNew f ∨ i = .rxUnit (frameUnit f) ∨ i = .btRxbyte 0x7E) → exec i s = .next { s with
      rxStream := rest
      rxBuf := []
      lastSeen := s.lastSeen.set f.source.toNat (some f.ackBit) f.source.isLt
      ingress := s.ingress ++ [f]
      egress := if f.destination = s.cfg.broadcastAddr then s.egress
        else s.egress ++ [.ackOut s.cfg.deviceId f.source f.ackBit]
      answer := .void }

/-- 20_memory.md R62 (d), 45_receiver.md R220: `RX.UNIT u` is the step of the `FLAG` that completes `u`, waits in every other
state, and is in every state the step of the one outcome its dispatch names. A unit format is the handling of its unit, and completes
unless that is held (log 12); an outcome's operation on a unit with another outcome waits (log 11). -/
def Obligations.UnitHandlingIsItsOutcome : Prop :=
  (∀ (s : State) (u rest : Bytes), Completes s u rest →
    exec (.rxUnit u) s = exec .wFlag s ∧ exec (.rxUnit u) s = exec (.btRxbyte 0x7E) s) ∧
  (∀ (s : State) (u : Bytes), (∀ rest, ¬Completes s u rest) → exec (.rxUnit u) s = .next { s with answer := .held }) ∧
  (∀ (s : State) (u : Bytes), exec (.rxUnit u) s = exec (outcomeInstr u (classify s u)) s) ∧
  (∀ (s : State) (a : AckRec), exec (.uAck a) s = exec (.rxUnit (ackUnit a)) s) ∧
  (∀ (s : State) (f : DataFrame), exec (.uData f) s = exec (.rxUnit (frameUnit f)) s) ∧
  (∀ (s : State) (a : AckRec) (rest : Bytes), Completes s (ackUnit a) rest → exec (.uAck a) s = .next
    { applyVerdict { s with rxStream := rest, rxBuf := [] } (ackUnit a) (classify s (ackUnit a)) with answer := .void }) ∧
  (∀ (s : State) (f : DataFrame) (rest : Bytes), Completes s (frameUnit f) rest →
    verdictHeld s (classify s (frameUnit f)) = false → exec (.uData f) s = .next
    { applyVerdict { s with rxStream := rest, rxBuf := [] } (frameUnit f) (classify s (frameUnit f)) with
      answer := .void }) ∧
  (∀ (s : State) (a : AckRec) (i : Instr), (i = .rxAckDropChk a ∧ classify s (ackUnit a) ≠ .ackDropChk a) ∨
      (i = .rxAckDropAddr a ∧ classify s (ackUnit a) ≠ .ackDropAddr a) ∨
      (i = .rxAckDropFull a ∧ classify s (ackUnit a) ≠ .ackDropFull a) ∨
      (i = .rxAckAccept a ∧ classify s (ackUnit a) ≠ .ackAccept a) →
    exec i s = .next { s with answer := .held }) ∧
  (∀ (s : State) (reason : LenReason) (u : Bytes), classify s u ≠ .frameDropLen reason →
    exec (.rxFrameDropLen reason u) s = .next { s with answer := .held }) ∧
  (∀ (s : State) (which : CheckWhich) (f : DataFrame) (i : Instr),
      (i = .rxFrameDropChk which f ∧ classify s (frameUnit f) ≠ .frameDropChk which f) ∨
      (i = .rxFrameDropAddr f ∧ classify s (frameUnit f) ≠ .frameDropAddr f) ∨
      (i = .rxFrameDup f ∧ classify s (frameUnit f) ≠ .frameDup f) ∨
      (i = .rxFrameNew f ∧ classify s (frameUnit f) ≠ .frameNew f) →
    exec i s = .next { s with answer := .held })

/-- 45_receiver.md R231: which outcomes are held, and that no other is. A hold changes nothing, and while it lasts the terminator
stays next, `rx_buf` keeps the unit, and no byte is consumed (70_reset_and_hazards.md R309; the form of a hold: log 3). -/
def Obligations.OnlyDeliveryAndAcksAreHeld : Prop :=
  ∀ (s : State) (u rest : Bytes) (t : State), Completes s u rest → exec (.rxUnit u) s = .next t →
    (t.answer = .held ↔ ∃ f, frmDecode s.cfg u = .ok f ∧ u.length ≠ 5 ∧ soundFrame s.cfg f = true ∧
      (f.destination = s.cfg.deviceId ∨ f.destination = s.cfg.broadcastAddr) ∧
      ((seen s f.source ≠ some f.ackBit ∧ s.cfg.ingressCap = .bounded s.ingress.length) ∨
        (f.destination ≠ s.cfg.broadcastAddr ∧ s.egress.length = s.cfg.egressCap))) ∧
    (t.answer = .held → t = { s with answer := .held } ∧
      ∀ b, exec (.btRxbyte b) s = .next { s with answer := .held })

/-- 45_receiver.md R233: an Ack is queued for a handled unit if and only if it decoded to a frame, both checksums are right
and it is addressed to this card; one Ack per unit, naming the sender and its bit. -/
def Obligations.AcksAreGeneratedExactly : Prop :=
  ∀ (s t : State) (u rest : Bytes), s.cfg.deviceId ≠ s.cfg.broadcastAddr → Completes s u rest →
    exec (.rxUnit u) s = .next t → t.answer = .void →
    (∃ f, frmDecode s.cfg u = .ok f ∧ u.length ≠ 5 ∧ soundFrame s.cfg f = true ∧ f.destination = s.cfg.deviceId ∧
      t.egress = s.egress ++ [.ackOut s.cfg.deviceId f.source f.ackBit]) ∨
    (t.egress = s.egress ∧ ¬∃ f, frmDecode s.cfg u = .ok f ∧ u.length ≠ 5 ∧ soundFrame s.cfg f = true ∧
      f.destination = s.cfg.deviceId)

/-- 45_receiver.md R233 (95_test_vectors.md S1.3): the bytes of the same unicast frame, received twice, are one delivery and two
Acks. -/
def Obligations.TwiceReceivedIsOnceDelivered : Prop :=
  ∀ (s : State) (f : DataFrame) (rest : Bytes),
    s.rxStream = btSend (frameUnit f) ++ btSend (frameUnit f) ++ rest → s.rxBuf = [] → s.rxEsc = false →
    soundFrame s.cfg f = true → f.destination = s.cfg.deviceId →
    s.cfg.deviceId ≠ s.cfg.broadcastAddr → seen s f.source ≠ some f.ackBit →
    s.cfg.ingressCap ≠ .bounded s.ingress.length → s.egress.length + 2 ≤ s.cfg.egressCap →
    ∃ t, receiveAll (btSend (frameUnit f) ++ btSend (frameUnit f)) s = .next t ∧
      t.ingress = s.ingress ++ [f] ∧
      t.egress = s.egress ++
        [.ackOut s.cfg.deviceId f.source f.ackBit, .ackOut s.cfg.deviceId f.source f.ackBit] ∧
      seen t f.source = some f.ackBit ∧ (∀ d, d ≠ f.source → seen t d = seen s d) ∧
      t.rxStream = rest ∧ t.rxBuf = [] ∧ t.rxEsc = false ∧
      t.nextAckToSend = s.nextAckToSend ∧ t.txState = s.txState ∧ t.pendingAcks = s.pendingAcks ∧
      t.txStream = s.txStream

/-! ## Host ports, time, reset -/

/-- 46_host.md R251: the refusal of an over-long payload, the queueing, the hold. 60_exceptions.md R270: "A request that meets a
hold stays pending at its port until the hold lifts", and is then queued as it was made; the port as a list, any of whose requests may
be the next taken up, is the model's (log 27). -/
def Obligations.HostSendQueuesRefusesOrWaits : Prop :=
  (∀ (s : State) (destination : Byte) (payload : Bytes),
    (payload.length > s.cfg.maxPayload → exec (.hostSend destination payload) s = .next { s with
      diag := s.diag ++ [⟨.sendTooLong, .length payload.length⟩], answer := .refused }) ∧
    (payload.length ≤ s.cfg.maxPayload → s.egress.length ≠ s.cfg.egressCap →
      exec (.hostSend destination payload) s = .next { s with
        egress := s.egress ++ [.data ⟨destination, payload⟩], answer := .queued }) ∧
    (payload.length ≤ s.cfg.maxPayload → s.egress.length = s.cfg.egressCap →
      exec (.hostSend destination payload) s = .next { s with
        sendPort := s.sendPort ++ [⟨destination, payload⟩], answer := .held })) ∧
  (∀ (s : State) (r : SendReq) (before behind : List SendReq), s.sendPort = before ++ r :: behind →
    (r.payload.length > s.cfg.maxPayload → portStep (.send before.length) s = .next { s with
      sendPort := before ++ behind, diag := s.diag ++ [⟨.sendTooLong, .length r.payload.length⟩], answer := .refused }) ∧
    (r.payload.length ≤ s.cfg.maxPayload → s.egress.length ≠ s.cfg.egressCap →
      portStep (.send before.length) s = .next { s with
        sendPort := before ++ behind, egress := s.egress ++ [.data r], answer := .queued }) ∧
    (r.payload.length ≤ s.cfg.maxPayload → s.egress.length = s.cfg.egressCap →
      portStep (.send before.length) s = .next { s with answer := .held })) ∧
  (∀ (s : State) (k : Nat), s.sendPort.length ≤ k → portStep (.send k) s = .next { s with answer := .held })

/-- 46_host.md R252, R254: the receive port, and a tick. 60_exceptions.md R270: a receive request that meets a hold stays pending at
its port, and is answered once a frame is there; the port as a count is the model's (log 27). -/
def Obligations.HostRecvAndTick : Prop :=
  (∀ (s : State) (f : DataFrame) (rest : List DataFrame), s.ingress = f :: rest →
    exec .hostRecv s = .next { s with ingress := rest, answer := .frame f }) ∧
  (∀ s : State, s.ingress = [] → exec .hostRecv s = .next { s with recvPort := s.recvPort + 1, answer := .held }) ∧
  (∀ (s : State) (n : Nat) (f : DataFrame) (rest : List DataFrame), s.recvPort = n + 1 → s.ingress = f :: rest →
    portStep .recv s = .next { s with recvPort := n, ingress := rest, answer := .frame f }) ∧
  (∀ s : State, (s.recvPort = 0 ∨ s.ingress = []) → portStep .recv s = .next { s with answer := .held }) ∧
  (∀ s : State, exec .envTick s = .next { s with now := s.now + 1, answer := .void })

/-- 46_host.md R256, 10_state.md R37: every register after `RESET` with a legal configuration, whatever was queued, pending
or in flight. -/
def Obligations.ResetGivesTheResetValues : Prop :=
  ∀ (s : State) (c : Configuration), c.legal = true → ∃ t, exec (.reset c) s = .next t ∧
    t.cfg = c ∧ t.nextAckToSend = 0 ∧ (∀ d, seen t d = none) ∧ t.pendingAcks = [] ∧ t.egress = [] ∧ t.ingress = [] ∧
    t.txState = .idle ∧ t.now = 0 ∧ t.rxBuf = [] ∧ t.rxEsc = false ∧ t.txStream = [] ∧ t.diag = [] ∧ t.answer = .void

/-- 10_state.md R24, 70_reset_and_hazards.md R292: an illegal configuration is refused and nothing changes; which ones are
illegal is written out. That the run goes on with the answer `refused` is the model's choice (log 9). A legal `RESET` leaves
`rx_stream` "empty so far" (10_state.md R36); what it leaves in the fields the spec gives no reset value is the model's choice
(logs 6, 20), and so is that "pending" in 46_host.md R256 takes in the requests at the host ports (log 27). -/
def Obligations.ResetRefusesIllegalConfigurations : Prop :=
  (∀ (s : State) (c : Configuration),
    (c.deviceId = c.broadcastAddr ∨ c.maxPayload > 65535 ∨ c.timeoutTicks = 0 ∨ c.pollTicks = 0 ∨
      c.pollTicks > c.timeoutTicks ∨ c.egressCap = 0 ∨ c.ingressCap = .bounded 0 ∨ c.pendingCap = .bounded 0) →
    exec (.reset c) s = .next { s with answer := .refused }) ∧
  (∀ (s t : State) (c : Configuration), c.legal = true → exec (.reset c) s = .next t →
    t.rxStream = [] ∧ t.acc = 0 ∧ t.sendPort = [] ∧ t.recvPort = 0 ∧ t.schedule = s.schedule ∧ t.freeCount = s.freeCount)

/-! ## Whole-machine rules -/

/-- 10_state.md R38: every step keeps the invariant, from every state that meets it; with 46_host.md R251's bound on what pends at the
send port. -/
def Obligations.StepKeepsTheInvariant : Prop :=
  ∀ s t : State, Inv s → step s = .next t → Inv t

/-- 10_state.md R37, R38: the invariant holds after reset, with every legal configuration. -/
def Obligations.ResetMeetsTheInvariant : Prop :=
  Inv State.reset ∧ ∀ c : Configuration, c.legal = true → Inv (State.resetWith c)

/-- 60_exceptions.md R264, 30_encoding.md R91: no operation, with any operands in any state, stops the machine, nor does the step of
a pending request. That a disabled
step (log 3), `RESET` with an illegal configuration (log 9) and `FRM.ENCODE` of an over-long payload (log 13) answer a next state
is the model's choice. -/
def Obligations.NoOperationStopsTheMachine : Prop :=
  (∀ (i : Instr) (s : State), ∃ t, exec i s = .next t) ∧ ∀ (p : PortStep) (s : State), ∃ t, portStep p s = .next t

/-- 20_memory.md R63, 44_transmitter.md R205, 45_receiver.md R234: what each agent's steps leave alone, over all
operations, and that the pure functions write no state of the card. 10_state.md R36, 20_memory.md R62 (d): the Receiver consumes
`rx_stream` byte by byte in order, and processes a unit only in the step of the `FLAG` that ends it.
60_exceptions.md R270: no operation but `RESET` takes a request from its port; a request's own step alone does (log 27). -/
def Obligations.AgentsWriteOnlyTheirState : Prop :=
  (∀ (i : Instr) (s t : State), exec i s = .next t → agentOf i = none →
    t = { s with acc := t.acc, answer := t.answer, freeCount := t.freeCount }) ∧
  (∀ (i : Instr) (s t : State), exec i s = .next t → agentOf i = some .host →
    t = { s with
      egress := t.egress, ingress := t.ingress, sendPort := t.sendPort, recvPort := t.recvPort, diag := t.diag
      answer := t.answer } ∧
    (t.egress = s.egress ∨ ∃ r, t.egress = s.egress ++ [.data r]) ∧ (t.ingress = s.ingress ∨ t.ingress = s.ingress.tail) ∧
    (t.sendPort = s.sendPort ∨ ∃ r, t.sendPort = s.sendPort ++ [r]) ∧
    (t.recvPort = s.recvPort ∨ t.recvPort = s.recvPort + 1)) ∧
  (∀ (p : PortStep) (s t : State), portStep p s = .next t →
    t = { s with answer := .held } ∨
    (∃ before r behind, p = .send before.length ∧ s.sendPort = before ++ r :: behind ∧
      t = { s with
        sendPort := before ++ behind, egress := t.egress, diag := t.diag, answer := t.answer } ∧
      (t.egress = s.egress ++ [.data r] ∧ t.diag = s.diag ∧ t.answer = .queued ∨
        t.egress = s.egress ∧ s.diag.length + 1 = t.diag.length ∧ t.answer = .refused)) ∨
    (p = .recv ∧ s.recvPort = t.recvPort + 1 ∧ ∃ f, s.ingress = f :: t.ingress ∧
      t = { s with recvPort := t.recvPort, ingress := t.ingress, answer := .frame f })) ∧
  (∀ (i : Instr) (s t : State), exec i s = .next t → agentOf i = some .tx →
    t = { s with
      egress := t.egress, pendingAcks := t.pendingAcks, nextAckToSend := t.nextAckToSend, txState := t.txState,
      txStream := t.txStream, diag := t.diag, answer := t.answer } ∧
    (t.egress = s.egress ∨ t.egress = s.egress.tail) ∧
    (t.pendingAcks = s.pendingAcks ∨ ∃ e, t.pendingAcks = s.pendingAcks.erase e)) ∧
  (∀ (i : Instr) (s t : State), exec i s = .next t → agentOf i = some .rx →
    t = { s with
      egress := t.egress, ingress := t.ingress, pendingAcks := t.pendingAcks, lastSeen := t.lastSeen,
      rxBuf := t.rxBuf, rxEsc := t.rxEsc, rxStream := t.rxStream, diag := t.diag, answer := t.answer } ∧
    (t.egress = s.egress ∨ ∃ a d n, t.egress = s.egress ++ [.ackOut a d n]) ∧
    (t.ingress = s.ingress ∨ ∃ f, t.ingress = s.ingress ++ [f]) ∧
    (t.pendingAcks = s.pendingAcks ∨ ∃ a, t.pendingAcks = s.pendingAcks ++ [a]) ∧
    (t.rxStream = s.rxStream ∨ ∃ b, s.rxStream = b :: t.rxStream) ∧
    ((t.egress = s.egress ∧ t.ingress = s.ingress ∧ t.pendingAcks = s.pendingAcks ∧ t.lastSeen = s.lastSeen ∧
        t.diag = s.diag) ∨
      (Completes s s.rxBuf t.rxStream ∧ t.rxBuf = [] ∧ t.rxEsc = false))) ∧
  (∀ (i : Instr) (s t : State), exec i s = .next t → agentOf i = some .env → (∀ c, i ≠ .reset c) →
    t = { s with now := t.now, answer := t.answer })

/-- 10_state.md R24, R32, R36: between resets the configuration is constant, `now` never decreases, and `tx_stream` and
`diag` only grow. -/
def Obligations.TracesGrowAndConfigurationStays : Prop :=
  ∀ (i : Instr) (s t : State), exec i s = .next t → (∀ c, i ≠ .reset c) →
    t.cfg = s.cfg ∧ s.now ≤ t.now ∧ s.txStream <+: t.txStream ∧ s.diag <+: t.diag

/-- 30_encoding.md R97: what a card in the invariant transmits is one stuffed unit at a time, a frame this card would
itself accept as sound, with this card as source and sequence bit 0 or 1, or an Ack as `ACK.ENCODE` makes it. -/
def Obligations.EmittedUnitsAreWellFormed : Prop :=
  ∀ (i : Instr) (s t : State), Inv s → exec i s = .next t → t.txStream ≠ s.txStream → (∀ c, i ≠ .reset c) →
    (∃ f, t.txStream = s.txStream ++ btSend (frameUnit f) ∧ soundFrame s.cfg f = true ∧ f.source = s.cfg.deviceId ∧
      (f.ackBit = 0 ∨ f.ackBit = 1)) ∨
    (∃ source destination number, t.txStream = s.txStream ++ btSend (ackEncode source destination number) ∧
      .ackOut source destination number ∈ s.egress)

/-! ## Two cards -/

/-- 44_transmitter.md R203, 95_test_vectors.md S1.4 and S1.7: over a medium that makes every byte available to the other card (two
states for two cards: log 19; the medium's part: log 10), one frame from card `a` to card `b` is delivered whole and acknowledged
with the frame's own bit, and `a` is back in `Idle` with its bit flipped after exactly one transmission. -/
def Obligations.OneFrameConvergesOverReliableMedium : Prop :=
  ∀ (a b : State) (r : SendReq) (q : List EgressItem),
    a.txState = .idle → a.egress = .data r :: q → r.destination ≠ a.cfg.broadcastAddr →
    a.pendingAcks = [] → a.cfg.pendingCap.legal = true → a.rxBuf = [] → a.rxEsc = false → a.rxStream = [] →
    b.cfg.deviceId = r.destination → b.cfg.broadcastAddr = a.cfg.broadcastAddr →
    r.payload.length ≤ b.cfg.maxPayload → b.cfg.maxPayload ≤ 65535 →
    b.txState = .idle → b.egress = [] → 1 ≤ b.cfg.egressCap → b.cfg.ingressCap ≠ .bounded b.ingress.length →
    b.rxBuf = [] → b.rxEsc = false → b.rxStream = [] → seen b a.cfg.deviceId ≠ some a.nextAckToSend →
    ∃ a1 b1 b2 a2 a3 wire ackWire,
      exec .txDeqFrame a = .next a1 ∧ a1.txStream = a.txStream ++ wire ∧
      receiveAll wire { b with rxStream := wire } = .next b1 ∧
      b1.ingress = b.ingress ++ [makeFrame a.cfg.deviceId r.destination a.nextAckToSend r.payload] ∧
      exec .txDeqAck b1 = .next b2 ∧ b2.txStream = b.txStream ++ ackWire ∧ b2.egress = [] ∧
      receiveAll ackWire { a1 with rxStream := ackWire } = .next a2 ∧
      exec (.txAckMatch (makeAck b.cfg.deviceId a.cfg.deviceId a.nextAckToSend)) a2 = .next a3 ∧
      a3.txState = .idle ∧ a3.nextAckToSend = 1 - a.nextAckToSend ∧ a3.pendingAcks = [] ∧ a3.egress = q ∧
      a3.txStream = a.txStream ++ wire ∧ a3.diag = a.diag ∧ a3.answer = .void
end

