-- ==== Sys2Proof/Laws/Codec.lean ====
section
/-! SUPPORT. Byte order, units and records: what the codecs give back (20_memory.md R53, 41_frame_codec.md, 42_ack_codec.md). -/

namespace Sys2Proof.Laws

open Sys2Proof Sys2Proof.Machine

/-! ## Byte order -/

theorem hi8_toNat (v : Half) : (hi8 v).toNat = v.toNat / 256 := by
  have := v.isLt
  simp only [hi8, BitVec.toNat_ofNat]
  omega

theorem lo8_toNat (v : Half) : (lo8 v).toNat = v.toNat % 256 := by
  simp only [lo8, BitVec.toNat_ofNat]

theorem be16_toNat (h l : Byte) : (be16 h l).toNat = h.toNat * 256 + l.toNat := by
  have := h.isLt
  have := l.isLt
  simp only [be16, BitVec.toNat_ofNat]
  omega

theorem be16_hi8_lo8 (v : Half) : be16 (hi8 v) (lo8 v) = v := by
  apply BitVec.eq_of_toNat_eq
  rw [be16_toNat, hi8_toNat, lo8_toNat]
  omega

theorem hi8_be16 (h l : Byte) : hi8 (be16 h l) = h := by
  apply BitVec.eq_of_toNat_eq
  have := l.isLt
  rw [hi8_toNat, be16_toNat]
  omega

theorem lo8_be16 (h l : Byte) : lo8 (be16 h l) = l := by
  apply BitVec.eq_of_toNat_eq
  have := l.isLt
  rw [lo8_toNat, be16_toNat]
  omega

theorem element_toNat (b : Byte) : (element b).toNat = b.toNat := by
  simp only [element, BitVec.toNat_setWidth]
  have := b.isLt
  omega

/-! ## Acks -/

theorem ackUnit_length (a : AckRec) : (ackUnit a).length = 5 := rfl

theorem ackFields_ackUnit (a : AckRec) : ackFields (ackUnit a) = a := by
  simp [ackFields, ackUnit, memRead1, memRead2, be16_hi8_lo8]

/-- A five-byte unit is the unit of the record read from it. -/
theorem ackUnit_ackFields {u : Bytes} (h : u.length = 5) : ackUnit (ackFields u) = u := by
  match u, h with
  | [b0, b1, b2, b3, b4], _ => simp [ackFields, ackUnit, memRead1, memRead2, hi8_be16, lo8_be16]

theorem ackDecode_ackUnit (a : AckRec) : ackDecode (ackUnit a) = some a := by
  simp [ackDecode, Config.ackSize, ackFields_ackUnit, ackUnit_length]

theorem ackVerify_makeAck (source destination number : Byte) : ackVerify (makeAck source destination number) = true := by
  simp [ackVerify, makeAck]

/-! ## Frames -/

theorem frameUnit_length (f : DataFrame) : (frameUnit f).length = f.payload.length + 9 := by
  simp [frameUnit]

/-- A unit of nine bytes or more is seven bytes, a payload and two more bytes. -/
theorem exists_frame_parts {u : Bytes} (h : 9 ≤ u.length) : ∃ b0 b1 b2 b3 b4 b5 b6 payload c0 c1,
    u = [b0, b1, b2, b3, b4, b5, b6] ++ payload ++ [c0, c1] := by
  obtain ⟨b0, b1, b2, b3, b4, b5, b6, rest, rfl⟩ : ∃ b0 b1 b2 b3 b4 b5 b6 rest,
      u = b0 :: b1 :: b2 :: b3 :: b4 :: b5 :: b6 :: rest := by
    match u, h with
    | b0 :: b1 :: b2 :: b3 :: b4 :: b5 :: b6 :: rest, _ => exact ⟨_, _, _, _, _, _, _, _, rfl⟩
  have hr : 2 ≤ rest.length := by simp at h; omega
  obtain ⟨c0, c1, hc⟩ : ∃ c0 c1, rest.drop (rest.length - 2) = [c0, c1] := by
    have hl : (rest.drop (rest.length - 2)).length = 2 := by simp; omega
    match rest.drop (rest.length - 2), hl with
    | [c0, c1], _ => exact ⟨_, _, rfl⟩
  refine ⟨b0, b1, b2, b3, b4, b5, b6, rest.take (rest.length - 2), c0, c1, ?_⟩
  rw [← hc]
  simp

/-- `FRM.DECODE` of a unit of nine bytes or more, by its parts. -/
theorem frmDecode_parts (c : Configuration) (b0 b1 b2 b3 b4 b5 b6 : Byte) (payload : Bytes) (c0 c1 : Byte) :
    frmDecode c ([b0, b1, b2, b3, b4, b5, b6] ++ payload ++ [c0, c1]) =
      if payload.length > c.maxPayload then .error .tooLong
      else if b3.toNat * 256 + b4.toNat ≠ payload.length then .error .lengthMismatch
      else .ok ⟨b0, b1, b2, be16 b3 b4, be16 b5 b6, payload, be16 c0 c1⟩ := by
  have hn : ([b0, b1, b2, b3, b4, b5, b6] ++ payload ++ [c0, c1]).length = payload.length + 9 := by simp
  have h3 : memRead2 ([b0, b1, b2, b3, b4, b5, b6] ++ payload ++ [c0, c1]) 3 = be16 b3 b4 := by
    simp [memRead2, memRead1]
  simp only [frmDecode, hn, h3, be16_toNat, Config.frameOverhead, Configuration.maxUnit]
  rw [if_neg (by omega)]
  by_cases hl : payload.length > c.maxPayload
  · rw [if_pos (by omega), if_pos hl]
  · rw [if_neg (by omega), if_neg hl]
    by_cases hm : b3.toNat * 256 + b4.toNat ≠ payload.length
    · rw [if_pos (by omega), if_pos hm]
    · have hm' : b3.toNat * 256 + b4.toNat = payload.length := by omega
      have hp : memRead2 ([b0, b1, b2, b3, b4, b5, b6] ++ payload ++ [c0, c1]) (7 + payload.length) = be16 c0 c1 := by
        simp [memRead2, memRead1, Nat.add_comm 7]
      rw [if_neg (by omega), if_neg hm, hm', hp]
      simp [memRead2, memRead1]

theorem frmDecode_short (c : Configuration) {u : Bytes} (h : u.length < 9) : frmDecode c u = .error .tooShort := by
  simp [frmDecode, Config.frameOverhead, h]

theorem frmDecode_long (c : Configuration) {u : Bytes} (h : u.length > c.maxPayload + 9) :
    frmDecode c u = .error .tooLong := by
  have h1 : ¬u.length < Config.frameOverhead := by simp only [Config.frameOverhead]; omega
  have h2 : u.length > c.maxUnit := h
  simp [frmDecode, h1, h2]

/-- A frame whose length field fits decodes from its unit. -/
theorem frmDecode_frameUnit (c : Configuration) {f : DataFrame} (hl : f.payloadLength.toNat = f.payload.length)
    (hm : f.payload.length ≤ c.maxPayload) : frmDecode c (frameUnit f) = .ok f := by
  have h := be16_toNat (hi8 f.payloadLength) (lo8 f.payloadLength)
  rw [be16_hi8_lo8] at h
  rw [frameUnit, frmDecode_parts, if_neg (by omega), if_neg (by omega)]
  simp only [be16_hi8_lo8]

/-- What `FRM.DECODE` accepts is the unit of the record it returns, of nine bytes or more and within MAX_UNIT. -/
theorem frmDecode_ok {c : Configuration} {u : Bytes} {f : DataFrame} (h : frmDecode c u = .ok f) :
    u = frameUnit f ∧ f.payloadLength.toNat = f.payload.length ∧ f.payload.length ≤ c.maxPayload := by
  by_cases h9 : u.length < 9
  · rw [frmDecode_short c h9] at h; cases h
  · obtain ⟨b0, b1, b2, b3, b4, b5, b6, payload, c0, c1, rfl⟩ := exists_frame_parts (u := u) (by omega)
    rw [frmDecode_parts] at h
    split at h
    · cases h
    · split at h
      · cases h
      · cases h
        refine ⟨?_, ?_, Nat.le_of_not_lt ‹_›⟩
        · simp [frameUnit, hi8_be16, lo8_be16]
        · simp only [be16_toNat]; omega

theorem makeFrame_payloadLength (source destination ackBit : Byte) {payload : Bytes} (h : payload.length ≤ 65535) :
    (makeFrame source destination ackBit payload).payloadLength.toNat = payload.length := by
  simp only [makeFrame, BitVec.toNat_ofNat]
  omega

theorem frmVerify_makeFrame (source destination ackBit : Byte) (payload : Bytes) :
    frmVerifyHdr (makeFrame source destination ackBit payload) = true ∧
    frmVerifyPay (makeFrame source destination ackBit payload) = true := by
  simp [frmVerifyHdr, frmVerifyPay, makeFrame]

/-- A frame whose length field fits and whose checksums are right is the one `FRM.ENCODE` makes of its fields. -/
theorem makeFrame_of_sound {f : DataFrame} (hl : f.payloadLength.toNat = f.payload.length)
    (hh : frmVerifyHdr f = true) (hp : frmVerifyPay f = true) :
    makeFrame f.source f.destination f.ackBit f.payload = f := by
  have hb : BitVec.ofNat 16 f.payload.length = f.payloadLength := by rw [← hl]; simp
  simp only [frmVerifyHdr, frmVerifyPay, beq_iff_eq] at hh hp
  cases f
  simp_all [makeFrame]

/-! ## Stuffing -/

/-- The unstuffer takes a stuffed sequence for the bytes it stands for. -/
theorem btRecvFrom_stuffed (u buf rest : Bytes) :
    btRecvFrom buf false (u.flatMap stuffByte ++ rest) = btRecvFrom (buf ++ u) false rest := by
  induction u generalizing buf with
  | nil => simp
  | cons b u ih =>
    by_cases hb : b = Config.flag ∨ b = Config.esc
    · have hs : stuffByte b = [Config.esc, b] := if_pos hb
      have he : ¬Config.esc = Config.flag := by decide
      simp only [List.flatMap_cons, hs, List.cons_append, List.nil_append, btRecvFrom, he, if_true, if_false,
        Bool.false_eq_true]
      rw [ih]
      simp
    · have hs : stuffByte b = [b] := if_neg hb
      push Not at hb
      simp only [List.flatMap_cons, hs, List.cons_append, List.nil_append, btRecvFrom]
      rw [if_neg (by simp), if_neg hb.1, if_neg hb.2, ih]
      simp

end Sys2Proof.Laws
end

