-- ==== Sys2Proof/Laws/Checksum.lean ====
section
/-! SUPPORT. The checksum engine's arithmetic (40_checksum.md R126, R127). -/

namespace Sys2Proof.Laws

open Sys2Proof Sys2Proof.Machine

/-- The exact sum of the elements (R127's T). -/
abbrev total (vs : List Half) : Nat := (vs.map BitVec.toNat).sum

/-- The representative of `t` modulo 65535 that the accumulator holds (R127). -/
def residue (t : Nat) : Nat := if t = 0 then 0 else (t - 1) % 65535 + 1

theorem residue_zero : residue 0 = 0 := rfl

theorem residue_le (t : Nat) : residue t ≤ 65535 := by
  unfold residue; split <;> omega

theorem residue_of_le {t : Nat} (h : t ≤ 65535) : residue t = t := by
  unfold residue; split <;> omega

theorem residue_eq_zero {t : Nat} : residue t = 0 ↔ t = 0 := by
  unfold residue; split <;> omega

theorem fold_eq (s : Nat) : fold s = (s &&& 0xFFFF) + (s >>> 16) := by
  have h := Nat.and_two_pow_sub_one_eq_mod s 16
  simp only [fold, Nat.shiftRight_eq_div_pow]
  norm_num at h ⊢
  omega

theorem fold_le {s : Nat} (h : s ≤ 0x1FFFE) : fold s ≤ 0xFFFF := by
  unfold fold; omega

theorem foldWhile_of_le (turns : Nat) {s : Nat} (h : s ≤ 65535) : foldWhile turns s = s := by
  cases turns with
  | zero => rfl
  | succ k => simp only [foldWhile]; split <;> omega

/-- Folding keeps the residue. -/
theorem residue_fold (s : Nat) : residue (fold s) = residue s := by
  unfold residue fold; split <;> split <;> omega

theorem residue_foldWhile (turns s : Nat) : residue (foldWhile turns s) = residue s := by
  induction turns generalizing s with
  | zero => rfl
  | succ k ih =>
    simp only [foldWhile]
    split
    · rw [ih, residue_fold]
    · rfl

theorem residue_add_residue (t v : Nat) : residue (residue t + v) = residue (t + v) := by
  unfold residue; split <;> split <;> split <;> omega

theorem chkAdd_toNat {acc : Acc} (h : acc.toNat ≤ 0xFFFF) (v : Half) :
    (chkAdd acc v).toNat = fold (acc.toNat + v.toNat) := by
  have hv := v.isLt
  have hf : fold (acc.toNat + v.toNat) ≤ 65535 := fold_le (by omega)
  rw [chkAdd, foldWhile_of_le 4 hf, BitVec.toNat_ofNat]
  omega

theorem chkAdd_residue {acc : Acc} (h : acc.toNat ≤ 0xFFFF) (v : Half) :
    (chkAdd acc v).toNat = residue (acc.toNat + v.toNat) := by
  have hv := v.isLt
  have hf : fold (acc.toNat + v.toNat) ≤ 65535 := fold_le (by omega)
  rw [chkAdd_toNat h, ← residue_fold, residue_of_le hf]

/-- From below 2^17 one turn is enough. -/
theorem foldWhile_succ_le {s : Nat} (turns : Nat) (h : s ≤ 0x1FFFE) : foldWhile (turns + 1) s ≤ 65535 := by
  have hf := fold_le h
  simp only [foldWhile]
  split
  · rw [foldWhile_of_le _ hf]; exact hf
  · omega

theorem foldWhile_le_four {s : Nat} (h : s < 2 ^ 33) : foldWhile 4 (fold s) ≤ 65535 := by
  have h2 : fold (fold s) ≤ 0x1FFFE := by unfold fold; omega
  rw [foldWhile]
  split
  · exact foldWhile_succ_le 2 h2
  · omega

/-- The accumulator's bound holds after every `CHK.ADD`, whatever it held before. -/
theorem chkAdd_le (acc : Acc) (v : Half) : (chkAdd acc v).toNat ≤ 0xFFFF := by
  have ha := acc.isLt
  have hv := v.isLt
  have h : foldWhile 4 (fold (acc.toNat + v.toNat)) ≤ 65535 := foldWhile_le_four (by omega)
  rw [chkAdd, BitVec.toNat_ofNat]
  omega

theorem foldl_chkAdd {acc : Acc} (vs : List Half) {t : Nat} (h : acc.toNat = residue t) :
    (vs.foldl chkAdd acc).toNat = residue (t + total vs) := by
  induction vs generalizing acc t with
  | nil => exact h
  | cons v vs ih =>
    have hle := residue_le t
    have hs : (chkAdd acc v).toNat = residue (t + v.toNat) := by
      rw [chkAdd_residue (by omega), h, residue_add_residue]
    simp only [List.foldl_cons, total, List.map_cons, List.sum_cons]
    rw [ih hs, Nat.add_assoc]

/-- R127: the accumulator after all elements. -/
theorem foldl_chkAdd_zero (vs : List Half) : (vs.foldl chkAdd 0).toNat = residue (total vs) := by
  rw [foldl_chkAdd vs (t := 0) rfl, Nat.zero_add]

/-- R123: `0xFFFF - acc`. -/
theorem chkFinal_toNat {acc : Acc} (h : acc.toNat ≤ 0xFFFF) : (chkFinal acc).toNat = 0xFFFF - acc.toNat := by
  simp only [chkFinal, BitVec.toNat_setWidth, BitVec.toNat_not]
  omega

/-- R127: the checksum in closed form. -/
theorem chkSum_toNat (vs : List Half) : (chkSum vs).toNat = 0xFFFF - residue (total vs) := by
  have h := residue_le (total vs)
  rw [chkSum, chkFinal_toNat (by rw [foldl_chkAdd_zero]; omega), foldl_chkAdd_zero]

theorem chkSum_eq_iff (vs ws : List Half) : chkSum vs = chkSum ws ↔ residue (total vs) = residue (total ws) := by
  have hv := residue_le (total vs)
  have hw := residue_le (total ws)
  constructor
  · intro h
    have := congrArg BitVec.toNat h
    rw [chkSum_toNat, chkSum_toNat] at this
    omega
  · intro h
    apply BitVec.eq_of_toNat_eq
    rw [chkSum_toNat, chkSum_toNat, h]

/-- Sums that differ by less than 65535 have different residues (40_checksum.md R130's argument). -/
theorem residue_ne {t t' d : Nat} (h1 : 1 ≤ d) (h2 : d ≤ 65534) (h : t' = t + d ∨ t = t' + d) : residue t ≠ residue t' := by
  unfold residue
  split <;> split <;> omega

theorem ackSum_toNat (source destination number : Byte) :
    (ackSum source destination number).toNat = 0xFFFF - (source.toNat + destination.toNat + number.toNat) := by
  have h1 := source.isLt
  have h2 := destination.isLt
  have h3 := number.isLt
  have ht : total [element source, element destination, element number] =
      source.toNat + destination.toNat + number.toNat := by
    simp only [total, List.map_cons, List.map_nil, List.sum_cons, List.sum_nil, element_toNat]
    omega
  rw [ackSum, chkSum_toNat, ht, residue_of_le (by omega)]

end Sys2Proof.Laws
end

