-- ==== Sys2Proof/Laws/State.lean ====
section
/-! SUPPORT. One lemma per field of State per named update, each true by rfl, so that no later proof unfolds a record
update; and what `State.acknowledge` does to each field. -/

namespace Sys2Proof.Laws

open Sys2Proof.Machine

@[simp] theorem emit_cfg (s : State) (c : DiagCode) (i : DiagInfo) : (s.emit c i).cfg = s.cfg := rfl
@[simp] theorem emit_nextAckToSend (s : State) (c : DiagCode) (i : DiagInfo) : (s.emit c i).nextAckToSend = s.nextAckToSend := rfl
@[simp] theorem emit_lastSeen (s : State) (c : DiagCode) (i : DiagInfo) : (s.emit c i).lastSeen = s.lastSeen := rfl
@[simp] theorem emit_pendingAcks (s : State) (c : DiagCode) (i : DiagInfo) : (s.emit c i).pendingAcks = s.pendingAcks := rfl
@[simp] theorem emit_egress (s : State) (c : DiagCode) (i : DiagInfo) : (s.emit c i).egress = s.egress := rfl
@[simp] theorem emit_ingress (s : State) (c : DiagCode) (i : DiagInfo) : (s.emit c i).ingress = s.ingress := rfl
@[simp] theorem emit_txState (s : State) (c : DiagCode) (i : DiagInfo) : (s.emit c i).txState = s.txState := rfl
@[simp] theorem emit_now (s : State) (c : DiagCode) (i : DiagInfo) : (s.emit c i).now = s.now := rfl
@[simp] theorem emit_rxBuf (s : State) (c : DiagCode) (i : DiagInfo) : (s.emit c i).rxBuf = s.rxBuf := rfl
@[simp] theorem emit_rxEsc (s : State) (c : DiagCode) (i : DiagInfo) : (s.emit c i).rxEsc = s.rxEsc := rfl
@[simp] theorem emit_acc (s : State) (c : DiagCode) (i : DiagInfo) : (s.emit c i).acc = s.acc := rfl
@[simp] theorem emit_txStream (s : State) (c : DiagCode) (i : DiagInfo) : (s.emit c i).txStream = s.txStream := rfl
@[simp] theorem emit_rxStream (s : State) (c : DiagCode) (i : DiagInfo) : (s.emit c i).rxStream = s.rxStream := rfl
@[simp] theorem emit_diag (s : State) (c : DiagCode) (i : DiagInfo) : (s.emit c i).diag = s.diag ++ [⟨c, i⟩] := rfl
@[simp] theorem emit_answer (s : State) (c : DiagCode) (i : DiagInfo) : (s.emit c i).answer = s.answer := rfl
@[simp] theorem emit_schedule (s : State) (c : DiagCode) (i : DiagInfo) : (s.emit c i).schedule = s.schedule := rfl
@[simp] theorem emit_freeCount (s : State) (c : DiagCode) (i : DiagInfo) : (s.emit c i).freeCount = s.freeCount := rfl
@[simp] theorem emit_sendPort (s : State) (c : DiagCode) (i : DiagInfo) : (s.emit c i).sendPort = s.sendPort := rfl
@[simp] theorem emit_recvPort (s : State) (c : DiagCode) (i : DiagInfo) : (s.emit c i).recvPort = s.recvPort := rfl

@[simp] theorem drop_cfg (s : State) (c : DiagCode) (i : DiagInfo) : (s.drop c i).cfg = s.cfg := rfl
@[simp] theorem drop_nextAckToSend (s : State) (c : DiagCode) (i : DiagInfo) : (s.drop c i).nextAckToSend = s.nextAckToSend := rfl
@[simp] theorem drop_lastSeen (s : State) (c : DiagCode) (i : DiagInfo) : (s.drop c i).lastSeen = s.lastSeen := rfl
@[simp] theorem drop_pendingAcks (s : State) (c : DiagCode) (i : DiagInfo) : (s.drop c i).pendingAcks = s.pendingAcks := rfl
@[simp] theorem drop_egress (s : State) (c : DiagCode) (i : DiagInfo) : (s.drop c i).egress = s.egress := rfl
@[simp] theorem drop_ingress (s : State) (c : DiagCode) (i : DiagInfo) : (s.drop c i).ingress = s.ingress := rfl
@[simp] theorem drop_txState (s : State) (c : DiagCode) (i : DiagInfo) : (s.drop c i).txState = s.txState := rfl
@[simp] theorem drop_now (s : State) (c : DiagCode) (i : DiagInfo) : (s.drop c i).now = s.now := rfl
@[simp] theorem drop_rxBuf (s : State) (c : DiagCode) (i : DiagInfo) : (s.drop c i).rxBuf = s.rxBuf := rfl
@[simp] theorem drop_rxEsc (s : State) (c : DiagCode) (i : DiagInfo) : (s.drop c i).rxEsc = s.rxEsc := rfl
@[simp] theorem drop_acc (s : State) (c : DiagCode) (i : DiagInfo) : (s.drop c i).acc = s.acc := rfl
@[simp] theorem drop_txStream (s : State) (c : DiagCode) (i : DiagInfo) : (s.drop c i).txStream = s.txStream := rfl
@[simp] theorem drop_rxStream (s : State) (c : DiagCode) (i : DiagInfo) : (s.drop c i).rxStream = s.rxStream := rfl
@[simp] theorem drop_diag (s : State) (c : DiagCode) (i : DiagInfo) : (s.drop c i).diag = s.diag ++ [⟨c, i⟩] := rfl
@[simp] theorem drop_answer (s : State) (c : DiagCode) (i : DiagInfo) : (s.drop c i).answer = s.answer := rfl
@[simp] theorem drop_schedule (s : State) (c : DiagCode) (i : DiagInfo) : (s.drop c i).schedule = s.schedule := rfl
@[simp] theorem drop_freeCount (s : State) (c : DiagCode) (i : DiagInfo) : (s.drop c i).freeCount = s.freeCount := rfl
@[simp] theorem drop_sendPort (s : State) (c : DiagCode) (i : DiagInfo) : (s.drop c i).sendPort = s.sendPort := rfl
@[simp] theorem drop_recvPort (s : State) (c : DiagCode) (i : DiagInfo) : (s.drop c i).recvPort = s.recvPort := rfl

@[simp] theorem transmit_cfg (s : State) (u : Bytes) : (s.transmit u).cfg = s.cfg := rfl
@[simp] theorem transmit_nextAckToSend (s : State) (u : Bytes) : (s.transmit u).nextAckToSend = s.nextAckToSend := rfl
@[simp] theorem transmit_lastSeen (s : State) (u : Bytes) : (s.transmit u).lastSeen = s.lastSeen := rfl
@[simp] theorem transmit_pendingAcks (s : State) (u : Bytes) : (s.transmit u).pendingAcks = s.pendingAcks := rfl
@[simp] theorem transmit_egress (s : State) (u : Bytes) : (s.transmit u).egress = s.egress := rfl
@[simp] theorem transmit_ingress (s : State) (u : Bytes) : (s.transmit u).ingress = s.ingress := rfl
@[simp] theorem transmit_txState (s : State) (u : Bytes) : (s.transmit u).txState = s.txState := rfl
@[simp] theorem transmit_now (s : State) (u : Bytes) : (s.transmit u).now = s.now := rfl
@[simp] theorem transmit_rxBuf (s : State) (u : Bytes) : (s.transmit u).rxBuf = s.rxBuf := rfl
@[simp] theorem transmit_rxEsc (s : State) (u : Bytes) : (s.transmit u).rxEsc = s.rxEsc := rfl
@[simp] theorem transmit_acc (s : State) (u : Bytes) : (s.transmit u).acc = s.acc := rfl
@[simp] theorem transmit_txStream (s : State) (u : Bytes) : (s.transmit u).txStream = s.txStream ++ btSend u := rfl
@[simp] theorem transmit_rxStream (s : State) (u : Bytes) : (s.transmit u).rxStream = s.rxStream := rfl
@[simp] theorem transmit_diag (s : State) (u : Bytes) : (s.transmit u).diag = s.diag := rfl
@[simp] theorem transmit_answer (s : State) (u : Bytes) : (s.transmit u).answer = s.answer := rfl
@[simp] theorem transmit_schedule (s : State) (u : Bytes) : (s.transmit u).schedule = s.schedule := rfl
@[simp] theorem transmit_freeCount (s : State) (u : Bytes) : (s.transmit u).freeCount = s.freeCount := rfl
@[simp] theorem transmit_sendPort (s : State) (u : Bytes) : (s.transmit u).sendPort = s.sendPort := rfl
@[simp] theorem transmit_recvPort (s : State) (u : Bytes) : (s.transmit u).recvPort = s.recvPort := rfl

@[simp] theorem enqEgress_cfg (s : State) (x : EgressItem) : (s.enqEgress x).cfg = s.cfg := rfl
@[simp] theorem enqEgress_nextAckToSend (s : State) (x : EgressItem) : (s.enqEgress x).nextAckToSend = s.nextAckToSend := rfl
@[simp] theorem enqEgress_lastSeen (s : State) (x : EgressItem) : (s.enqEgress x).lastSeen = s.lastSeen := rfl
@[simp] theorem enqEgress_pendingAcks (s : State) (x : EgressItem) : (s.enqEgress x).pendingAcks = s.pendingAcks := rfl
@[simp] theorem enqEgress_egress (s : State) (x : EgressItem) : (s.enqEgress x).egress = s.egress ++ [x] := rfl
@[simp] theorem enqEgress_ingress (s : State) (x : EgressItem) : (s.enqEgress x).ingress = s.ingress := rfl
@[simp] theorem enqEgress_txState (s : State) (x : EgressItem) : (s.enqEgress x).txState = s.txState := rfl
@[simp] theorem enqEgress_now (s : State) (x : EgressItem) : (s.enqEgress x).now = s.now := rfl
@[simp] theorem enqEgress_rxBuf (s : State) (x : EgressItem) : (s.enqEgress x).rxBuf = s.rxBuf := rfl
@[simp] theorem enqEgress_rxEsc (s : State) (x : EgressItem) : (s.enqEgress x).rxEsc = s.rxEsc := rfl
@[simp] theorem enqEgress_acc (s : State) (x : EgressItem) : (s.enqEgress x).acc = s.acc := rfl
@[simp] theorem enqEgress_txStream (s : State) (x : EgressItem) : (s.enqEgress x).txStream = s.txStream := rfl
@[simp] theorem enqEgress_rxStream (s : State) (x : EgressItem) : (s.enqEgress x).rxStream = s.rxStream := rfl
@[simp] theorem enqEgress_diag (s : State) (x : EgressItem) : (s.enqEgress x).diag = s.diag := rfl
@[simp] theorem enqEgress_answer (s : State) (x : EgressItem) : (s.enqEgress x).answer = s.answer := rfl
@[simp] theorem enqEgress_schedule (s : State) (x : EgressItem) : (s.enqEgress x).schedule = s.schedule := rfl
@[simp] theorem enqEgress_freeCount (s : State) (x : EgressItem) : (s.enqEgress x).freeCount = s.freeCount := rfl
@[simp] theorem enqEgress_sendPort (s : State) (x : EgressItem) : (s.enqEgress x).sendPort = s.sendPort := rfl
@[simp] theorem enqEgress_recvPort (s : State) (x : EgressItem) : (s.enqEgress x).recvPort = s.recvPort := rfl

@[simp] theorem deqEgress_cfg (s : State) : (s.deqEgress).cfg = s.cfg := rfl
@[simp] theorem deqEgress_nextAckToSend (s : State) : (s.deqEgress).nextAckToSend = s.nextAckToSend := rfl
@[simp] theorem deqEgress_lastSeen (s : State) : (s.deqEgress).lastSeen = s.lastSeen := rfl
@[simp] theorem deqEgress_pendingAcks (s : State) : (s.deqEgress).pendingAcks = s.pendingAcks := rfl
@[simp] theorem deqEgress_egress (s : State) : (s.deqEgress).egress = s.egress.tail := rfl
@[simp] theorem deqEgress_ingress (s : State) : (s.deqEgress).ingress = s.ingress := rfl
@[simp] theorem deqEgress_txState (s : State) : (s.deqEgress).txState = s.txState := rfl
@[simp] theorem deqEgress_now (s : State) : (s.deqEgress).now = s.now := rfl
@[simp] theorem deqEgress_rxBuf (s : State) : (s.deqEgress).rxBuf = s.rxBuf := rfl
@[simp] theorem deqEgress_rxEsc (s : State) : (s.deqEgress).rxEsc = s.rxEsc := rfl
@[simp] theorem deqEgress_acc (s : State) : (s.deqEgress).acc = s.acc := rfl
@[simp] theorem deqEgress_txStream (s : State) : (s.deqEgress).txStream = s.txStream := rfl
@[simp] theorem deqEgress_rxStream (s : State) : (s.deqEgress).rxStream = s.rxStream := rfl
@[simp] theorem deqEgress_diag (s : State) : (s.deqEgress).diag = s.diag := rfl
@[simp] theorem deqEgress_answer (s : State) : (s.deqEgress).answer = s.answer := rfl
@[simp] theorem deqEgress_schedule (s : State) : (s.deqEgress).schedule = s.schedule := rfl
@[simp] theorem deqEgress_freeCount (s : State) : (s.deqEgress).freeCount = s.freeCount := rfl
@[simp] theorem deqEgress_sendPort (s : State) : (s.deqEgress).sendPort = s.sendPort := rfl
@[simp] theorem deqEgress_recvPort (s : State) : (s.deqEgress).recvPort = s.recvPort := rfl

@[simp] theorem enqIngress_cfg (s : State) (f : DataFrame) : (s.enqIngress f).cfg = s.cfg := rfl
@[simp] theorem enqIngress_nextAckToSend (s : State) (f : DataFrame) : (s.enqIngress f).nextAckToSend = s.nextAckToSend := rfl
@[simp] theorem enqIngress_lastSeen (s : State) (f : DataFrame) : (s.enqIngress f).lastSeen = s.lastSeen := rfl
@[simp] theorem enqIngress_pendingAcks (s : State) (f : DataFrame) : (s.enqIngress f).pendingAcks = s.pendingAcks := rfl
@[simp] theorem enqIngress_egress (s : State) (f : DataFrame) : (s.enqIngress f).egress = s.egress := rfl
@[simp] theorem enqIngress_ingress (s : State) (f : DataFrame) : (s.enqIngress f).ingress = s.ingress ++ [f] := rfl
@[simp] theorem enqIngress_txState (s : State) (f : DataFrame) : (s.enqIngress f).txState = s.txState := rfl
@[simp] theorem enqIngress_now (s : State) (f : DataFrame) : (s.enqIngress f).now = s.now := rfl
@[simp] theorem enqIngress_rxBuf (s : State) (f : DataFrame) : (s.enqIngress f).rxBuf = s.rxBuf := rfl
@[simp] theorem enqIngress_rxEsc (s : State) (f : DataFrame) : (s.enqIngress f).rxEsc = s.rxEsc := rfl
@[simp] theorem enqIngress_acc (s : State) (f : DataFrame) : (s.enqIngress f).acc = s.acc := rfl
@[simp] theorem enqIngress_txStream (s : State) (f : DataFrame) : (s.enqIngress f).txStream = s.txStream := rfl
@[simp] theorem enqIngress_rxStream (s : State) (f : DataFrame) : (s.enqIngress f).rxStream = s.rxStream := rfl
@[simp] theorem enqIngress_diag (s : State) (f : DataFrame) : (s.enqIngress f).diag = s.diag := rfl
@[simp] theorem enqIngress_answer (s : State) (f : DataFrame) : (s.enqIngress f).answer = s.answer := rfl
@[simp] theorem enqIngress_schedule (s : State) (f : DataFrame) : (s.enqIngress f).schedule = s.schedule := rfl
@[simp] theorem enqIngress_freeCount (s : State) (f : DataFrame) : (s.enqIngress f).freeCount = s.freeCount := rfl
@[simp] theorem enqIngress_sendPort (s : State) (f : DataFrame) : (s.enqIngress f).sendPort = s.sendPort := rfl
@[simp] theorem enqIngress_recvPort (s : State) (f : DataFrame) : (s.enqIngress f).recvPort = s.recvPort := rfl

@[simp] theorem deqIngress_cfg (s : State) : (s.deqIngress).cfg = s.cfg := rfl
@[simp] theorem deqIngress_nextAckToSend (s : State) : (s.deqIngress).nextAckToSend = s.nextAckToSend := rfl
@[simp] theorem deqIngress_lastSeen (s : State) : (s.deqIngress).lastSeen = s.lastSeen := rfl
@[simp] theorem deqIngress_pendingAcks (s : State) : (s.deqIngress).pendingAcks = s.pendingAcks := rfl
@[simp] theorem deqIngress_egress (s : State) : (s.deqIngress).egress = s.egress := rfl
@[simp] theorem deqIngress_ingress (s : State) : (s.deqIngress).ingress = s.ingress.tail := rfl
@[simp] theorem deqIngress_txState (s : State) : (s.deqIngress).txState = s.txState := rfl
@[simp] theorem deqIngress_now (s : State) : (s.deqIngress).now = s.now := rfl
@[simp] theorem deqIngress_rxBuf (s : State) : (s.deqIngress).rxBuf = s.rxBuf := rfl
@[simp] theorem deqIngress_rxEsc (s : State) : (s.deqIngress).rxEsc = s.rxEsc := rfl
@[simp] theorem deqIngress_acc (s : State) : (s.deqIngress).acc = s.acc := rfl
@[simp] theorem deqIngress_txStream (s : State) : (s.deqIngress).txStream = s.txStream := rfl
@[simp] theorem deqIngress_rxStream (s : State) : (s.deqIngress).rxStream = s.rxStream := rfl
@[simp] theorem deqIngress_diag (s : State) : (s.deqIngress).diag = s.diag := rfl
@[simp] theorem deqIngress_answer (s : State) : (s.deqIngress).answer = s.answer := rfl
@[simp] theorem deqIngress_schedule (s : State) : (s.deqIngress).schedule = s.schedule := rfl
@[simp] theorem deqIngress_freeCount (s : State) : (s.deqIngress).freeCount = s.freeCount := rfl
@[simp] theorem deqIngress_sendPort (s : State) : (s.deqIngress).sendPort = s.sendPort := rfl
@[simp] theorem deqIngress_recvPort (s : State) : (s.deqIngress).recvPort = s.recvPort := rfl

@[simp] theorem insertAck_cfg (s : State) (a : AckRec) : (s.insertAck a).cfg = s.cfg := rfl
@[simp] theorem insertAck_nextAckToSend (s : State) (a : AckRec) : (s.insertAck a).nextAckToSend = s.nextAckToSend := rfl
@[simp] theorem insertAck_lastSeen (s : State) (a : AckRec) : (s.insertAck a).lastSeen = s.lastSeen := rfl
@[simp] theorem insertAck_pendingAcks (s : State) (a : AckRec) : (s.insertAck a).pendingAcks = s.pendingAcks ++ [a] := rfl
@[simp] theorem insertAck_egress (s : State) (a : AckRec) : (s.insertAck a).egress = s.egress := rfl
@[simp] theorem insertAck_ingress (s : State) (a : AckRec) : (s.insertAck a).ingress = s.ingress := rfl
@[simp] theorem insertAck_txState (s : State) (a : AckRec) : (s.insertAck a).txState = s.txState := rfl
@[simp] theorem insertAck_now (s : State) (a : AckRec) : (s.insertAck a).now = s.now := rfl
@[simp] theorem insertAck_rxBuf (s : State) (a : AckRec) : (s.insertAck a).rxBuf = s.rxBuf := rfl
@[simp] theorem insertAck_rxEsc (s : State) (a : AckRec) : (s.insertAck a).rxEsc = s.rxEsc := rfl
@[simp] theorem insertAck_acc (s : State) (a : AckRec) : (s.insertAck a).acc = s.acc := rfl
@[simp] theorem insertAck_txStream (s : State) (a : AckRec) : (s.insertAck a).txStream = s.txStream := rfl
@[simp] theorem insertAck_rxStream (s : State) (a : AckRec) : (s.insertAck a).rxStream = s.rxStream := rfl
@[simp] theorem insertAck_diag (s : State) (a : AckRec) : (s.insertAck a).diag = s.diag := rfl
@[simp] theorem insertAck_answer (s : State) (a : AckRec) : (s.insertAck a).answer = s.answer := rfl
@[simp] theorem insertAck_schedule (s : State) (a : AckRec) : (s.insertAck a).schedule = s.schedule := rfl
@[simp] theorem insertAck_freeCount (s : State) (a : AckRec) : (s.insertAck a).freeCount = s.freeCount := rfl
@[simp] theorem insertAck_sendPort (s : State) (a : AckRec) : (s.insertAck a).sendPort = s.sendPort := rfl
@[simp] theorem insertAck_recvPort (s : State) (a : AckRec) : (s.insertAck a).recvPort = s.recvPort := rfl

@[simp] theorem removeAck_cfg (s : State) (a : AckRec) : (s.removeAck a).cfg = s.cfg := rfl
@[simp] theorem removeAck_nextAckToSend (s : State) (a : AckRec) : (s.removeAck a).nextAckToSend = s.nextAckToSend := rfl
@[simp] theorem removeAck_lastSeen (s : State) (a : AckRec) : (s.removeAck a).lastSeen = s.lastSeen := rfl
@[simp] theorem removeAck_pendingAcks (s : State) (a : AckRec) : (s.removeAck a).pendingAcks = s.pendingAcks.erase a := rfl
@[simp] theorem removeAck_egress (s : State) (a : AckRec) : (s.removeAck a).egress = s.egress := rfl
@[simp] theorem removeAck_ingress (s : State) (a : AckRec) : (s.removeAck a).ingress = s.ingress := rfl
@[simp] theorem removeAck_txState (s : State) (a : AckRec) : (s.removeAck a).txState = s.txState := rfl
@[simp] theorem removeAck_now (s : State) (a : AckRec) : (s.removeAck a).now = s.now := rfl
@[simp] theorem removeAck_rxBuf (s : State) (a : AckRec) : (s.removeAck a).rxBuf = s.rxBuf := rfl
@[simp] theorem removeAck_rxEsc (s : State) (a : AckRec) : (s.removeAck a).rxEsc = s.rxEsc := rfl
@[simp] theorem removeAck_acc (s : State) (a : AckRec) : (s.removeAck a).acc = s.acc := rfl
@[simp] theorem removeAck_txStream (s : State) (a : AckRec) : (s.removeAck a).txStream = s.txStream := rfl
@[simp] theorem removeAck_rxStream (s : State) (a : AckRec) : (s.removeAck a).rxStream = s.rxStream := rfl
@[simp] theorem removeAck_diag (s : State) (a : AckRec) : (s.removeAck a).diag = s.diag := rfl
@[simp] theorem removeAck_answer (s : State) (a : AckRec) : (s.removeAck a).answer = s.answer := rfl
@[simp] theorem removeAck_schedule (s : State) (a : AckRec) : (s.removeAck a).schedule = s.schedule := rfl
@[simp] theorem removeAck_freeCount (s : State) (a : AckRec) : (s.removeAck a).freeCount = s.freeCount := rfl
@[simp] theorem removeAck_sendPort (s : State) (a : AckRec) : (s.removeAck a).sendPort = s.sendPort := rfl
@[simp] theorem removeAck_recvPort (s : State) (a : AckRec) : (s.removeAck a).recvPort = s.recvPort := rfl

@[simp] theorem recordSeen_cfg (s : State) (d b : Byte) : (s.recordSeen d b).cfg = s.cfg := rfl
@[simp] theorem recordSeen_nextAckToSend (s : State) (d b : Byte) : (s.recordSeen d b).nextAckToSend = s.nextAckToSend := rfl
@[simp] theorem recordSeen_lastSeen (s : State) (d b : Byte) : (s.recordSeen d b).lastSeen = s.lastSeen.set d.toNat (some b) d.isLt := rfl
@[simp] theorem recordSeen_pendingAcks (s : State) (d b : Byte) : (s.recordSeen d b).pendingAcks = s.pendingAcks := rfl
@[simp] theorem recordSeen_egress (s : State) (d b : Byte) : (s.recordSeen d b).egress = s.egress := rfl
@[simp] theorem recordSeen_ingress (s : State) (d b : Byte) : (s.recordSeen d b).ingress = s.ingress := rfl
@[simp] theorem recordSeen_txState (s : State) (d b : Byte) : (s.recordSeen d b).txState = s.txState := rfl
@[simp] theorem recordSeen_now (s : State) (d b : Byte) : (s.recordSeen d b).now = s.now := rfl
@[simp] theorem recordSeen_rxBuf (s : State) (d b : Byte) : (s.recordSeen d b).rxBuf = s.rxBuf := rfl
@[simp] theorem recordSeen_rxEsc (s : State) (d b : Byte) : (s.recordSeen d b).rxEsc = s.rxEsc := rfl
@[simp] theorem recordSeen_acc (s : State) (d b : Byte) : (s.recordSeen d b).acc = s.acc := rfl
@[simp] theorem recordSeen_txStream (s : State) (d b : Byte) : (s.recordSeen d b).txStream = s.txStream := rfl
@[simp] theorem recordSeen_rxStream (s : State) (d b : Byte) : (s.recordSeen d b).rxStream = s.rxStream := rfl
@[simp] theorem recordSeen_diag (s : State) (d b : Byte) : (s.recordSeen d b).diag = s.diag := rfl
@[simp] theorem recordSeen_answer (s : State) (d b : Byte) : (s.recordSeen d b).answer = s.answer := rfl
@[simp] theorem recordSeen_schedule (s : State) (d b : Byte) : (s.recordSeen d b).schedule = s.schedule := rfl
@[simp] theorem recordSeen_freeCount (s : State) (d b : Byte) : (s.recordSeen d b).freeCount = s.freeCount := rfl
@[simp] theorem recordSeen_sendPort (s : State) (d b : Byte) : (s.recordSeen d b).sendPort = s.sendPort := rfl
@[simp] theorem recordSeen_recvPort (s : State) (d b : Byte) : (s.recordSeen d b).recvPort = s.recvPort := rfl

@[simp] theorem setTx_cfg (s : State) (x : TxState) : (s.setTx x).cfg = s.cfg := rfl
@[simp] theorem setTx_nextAckToSend (s : State) (x : TxState) : (s.setTx x).nextAckToSend = s.nextAckToSend := rfl
@[simp] theorem setTx_lastSeen (s : State) (x : TxState) : (s.setTx x).lastSeen = s.lastSeen := rfl
@[simp] theorem setTx_pendingAcks (s : State) (x : TxState) : (s.setTx x).pendingAcks = s.pendingAcks := rfl
@[simp] theorem setTx_egress (s : State) (x : TxState) : (s.setTx x).egress = s.egress := rfl
@[simp] theorem setTx_ingress (s : State) (x : TxState) : (s.setTx x).ingress = s.ingress := rfl
@[simp] theorem setTx_txState (s : State) (x : TxState) : (s.setTx x).txState = x := rfl
@[simp] theorem setTx_now (s : State) (x : TxState) : (s.setTx x).now = s.now := rfl
@[simp] theorem setTx_rxBuf (s : State) (x : TxState) : (s.setTx x).rxBuf = s.rxBuf := rfl
@[simp] theorem setTx_rxEsc (s : State) (x : TxState) : (s.setTx x).rxEsc = s.rxEsc := rfl
@[simp] theorem setTx_acc (s : State) (x : TxState) : (s.setTx x).acc = s.acc := rfl
@[simp] theorem setTx_txStream (s : State) (x : TxState) : (s.setTx x).txStream = s.txStream := rfl
@[simp] theorem setTx_rxStream (s : State) (x : TxState) : (s.setTx x).rxStream = s.rxStream := rfl
@[simp] theorem setTx_diag (s : State) (x : TxState) : (s.setTx x).diag = s.diag := rfl
@[simp] theorem setTx_answer (s : State) (x : TxState) : (s.setTx x).answer = s.answer := rfl
@[simp] theorem setTx_schedule (s : State) (x : TxState) : (s.setTx x).schedule = s.schedule := rfl
@[simp] theorem setTx_freeCount (s : State) (x : TxState) : (s.setTx x).freeCount = s.freeCount := rfl
@[simp] theorem setTx_sendPort (s : State) (x : TxState) : (s.setTx x).sendPort = s.sendPort := rfl
@[simp] theorem setTx_recvPort (s : State) (x : TxState) : (s.setTx x).recvPort = s.recvPort := rfl

/-! `State.acknowledge` writes `egress` only, and only for a unicast frame. -/

@[simp] theorem acknowledge_cfg (s : State) (f : DataFrame) : (s.acknowledge f).cfg = s.cfg := by
  unfold State.acknowledge; split <;> rfl

@[simp] theorem acknowledge_nextAckToSend (s : State) (f : DataFrame) : (s.acknowledge f).nextAckToSend = s.nextAckToSend := by
  unfold State.acknowledge; split <;> rfl

@[simp] theorem acknowledge_lastSeen (s : State) (f : DataFrame) : (s.acknowledge f).lastSeen = s.lastSeen := by
  unfold State.acknowledge; split <;> rfl

@[simp] theorem acknowledge_pendingAcks (s : State) (f : DataFrame) : (s.acknowledge f).pendingAcks = s.pendingAcks := by
  unfold State.acknowledge; split <;> rfl

theorem acknowledge_egress (s : State) (f : DataFrame) :
    (s.acknowledge f).egress =
      if f.destination = s.cfg.broadcastAddr then s.egress
      else s.egress ++ [.ackOut s.cfg.deviceId f.source f.ackBit] := by
  unfold State.acknowledge unicast
  by_cases h : f.destination = s.cfg.broadcastAddr <;> simp [h]

@[simp] theorem acknowledge_ingress (s : State) (f : DataFrame) : (s.acknowledge f).ingress = s.ingress := by
  unfold State.acknowledge; split <;> rfl

@[simp] theorem acknowledge_txState (s : State) (f : DataFrame) : (s.acknowledge f).txState = s.txState := by
  unfold State.acknowledge; split <;> rfl

@[simp] theorem acknowledge_now (s : State) (f : DataFrame) : (s.acknowledge f).now = s.now := by
  unfold State.acknowledge; split <;> rfl

@[simp] theorem acknowledge_rxBuf (s : State) (f : DataFrame) : (s.acknowledge f).rxBuf = s.rxBuf := by
  unfold State.acknowledge; split <;> rfl

@[simp] theorem acknowledge_rxEsc (s : State) (f : DataFrame) : (s.acknowledge f).rxEsc = s.rxEsc := by
  unfold State.acknowledge; split <;> rfl

@[simp] theorem acknowledge_acc (s : State) (f : DataFrame) : (s.acknowledge f).acc = s.acc := by
  unfold State.acknowledge; split <;> rfl

@[simp] theorem acknowledge_txStream (s : State) (f : DataFrame) : (s.acknowledge f).txStream = s.txStream := by
  unfold State.acknowledge; split <;> rfl

@[simp] theorem acknowledge_rxStream (s : State) (f : DataFrame) : (s.acknowledge f).rxStream = s.rxStream := by
  unfold State.acknowledge; split <;> rfl

@[simp] theorem acknowledge_diag (s : State) (f : DataFrame) : (s.acknowledge f).diag = s.diag := by
  unfold State.acknowledge; split <;> rfl

@[simp] theorem acknowledge_answer (s : State) (f : DataFrame) : (s.acknowledge f).answer = s.answer := by
  unfold State.acknowledge; split <;> rfl

@[simp] theorem acknowledge_schedule (s : State) (f : DataFrame) : (s.acknowledge f).schedule = s.schedule := by
  unfold State.acknowledge; split <;> rfl

@[simp] theorem acknowledge_freeCount (s : State) (f : DataFrame) : (s.acknowledge f).freeCount = s.freeCount := by
  unfold State.acknowledge; split <;> rfl

@[simp] theorem acknowledge_sendPort (s : State) (f : DataFrame) : (s.acknowledge f).sendPort = s.sendPort := by
  unfold State.acknowledge; split <;> rfl

@[simp] theorem acknowledge_recvPort (s : State) (f : DataFrame) : (s.acknowledge f).recvPort = s.recvPort := by
  unfold State.acknowledge; split <;> rfl

/-! ## The table `last_seen` -/

theorem seen_recordSeen (s : State) (d b d' : Byte) :
    seen (s.recordSeen d b) d' = if d = d' then some b else seen s d' := by
  have e : d.toNat = d'.toNat ↔ d = d' := ⟨fun h => BitVec.eq_of_toNat_eq h, fun h => h ▸ rfl⟩
  simp only [seen, recordSeen_lastSeen, Vector.getElem_set, e]

/-- No prior record of any device after reset (10_state.md R37). -/
theorem seen_resetWith (c : Configuration) (d : Byte) : seen (State.resetWith c) d = none := by
  simp [seen, State.resetWith]

/-! ## Answers -/

theorem finish_eq (s : State) (a : Answer) : s.finish a = .next { s with answer := a } := rfl

theorem hold_eq (s : State) : s.hold = .next { s with answer := .held } := rfl

end Sys2Proof.Laws
end

