-- ==== Sys2Proof/Laws/Exec.lean ====
section
/-! SUPPORT. For each shared operation of Machine/Ops.lean, everything it can do, said once. -/

namespace Sys2Proof.Laws

open Sys2Proof Sys2Proof.Machine

/-! ## Room -/

theorem capacity_full_iff (c : Capacity) (n : Nat) : c.full n = true ↔ c = .bounded n := by
  cases c with
  | unbounded => simp [Capacity.full]
  | bounded m => simp [Capacity.full, eq_comm]

theorem ingressFull_iff (s : State) : ingressFull s = true ↔ s.cfg.ingressCap = .bounded s.ingress.length :=
  capacity_full_iff _ _

theorem pendingFull_iff (s : State) : pendingFull s = true ↔ s.cfg.pendingCap = .bounded s.pendingAcks.length :=
  capacity_full_iff _ _

theorem egressFull_iff (s : State) : egressFull s = true ↔ s.egress.length = s.cfg.egressCap := by
  simp [egressFull]

/-- One item more where there is room. -/
theorem capacity_admits_succ {c : Capacity} {n : Nat} (h : c.admits n = true) (hf : c.full n = false) :
    c.admits (n + 1) = true := by
  cases c with
  | unbounded => rfl
  | bounded m =>
    simp only [Capacity.admits, Capacity.full, decide_eq_true_eq, decide_eq_false_iff_not] at *
    omega

theorem capacity_admits_of_le {c : Capacity} {m n : Nat} (h : c.admits n = true) (hm : m ≤ n) : c.admits m = true := by
  cases c with
  | unbounded => rfl
  | bounded k =>
    simp only [Capacity.admits, decide_eq_true_eq] at *
    omega

/-! ## Units -/

/-- The verdicts a unit can have, and what each says of it (45_receiver.md R220). -/
theorem classify_cases (s : State) (u : Bytes) :
    (∃ a, u = ackUnit a ∧ (
      (ackVerify a = false ∧ classify s u = .ackDropChk a) ∨
      (ackVerify a = true ∧ a.destination ≠ s.cfg.deviceId ∧ classify s u = .ackDropAddr a) ∨
      (ackVerify a = true ∧ a.destination = s.cfg.deviceId ∧ pendingFull s = true ∧ classify s u = .ackDropFull a) ∨
      (ackVerify a = true ∧ a.destination = s.cfg.deviceId ∧ pendingFull s = false ∧ classify s u = .ackAccept a))) ∨
    (u.length ≠ 5 ∧ (
      (∃ reason, frmDecode s.cfg u = .error reason ∧ classify s u = .frameDropLen reason) ∨
      (∃ f, frmDecode s.cfg u = .ok f ∧ (
        (frmVerifyHdr f = false ∧ classify s u = .frameDropChk .header f) ∨
        (frmVerifyHdr f = true ∧ frmVerifyPay f = false ∧ classify s u = .frameDropChk .payload f) ∨
        (frmVerifyHdr f = true ∧ frmVerifyPay f = true ∧ addressedHere s f = false ∧
          classify s u = .frameDropAddr f) ∨
        (frmVerifyHdr f = true ∧ frmVerifyPay f = true ∧ addressedHere s f = true ∧ seen s f.source = some f.ackBit ∧
          classify s u = .frameDup f) ∨
        (frmVerifyHdr f = true ∧ frmVerifyPay f = true ∧ addressedHere s f = true ∧ seen s f.source ≠ some f.ackBit ∧
          classify s u = .frameNew f))))) := by
  by_cases h5 : u.length = 5
  · left
    have h5' : u.length = Config.ackSize := h5
    refine ⟨ackFields u, (ackUnit_ackFields h5).symm, ?_⟩
    simp only [classify, h5', if_true]
    cases hv : ackVerify (ackFields u)
    · simp
    · by_cases hd : (ackFields u).destination = s.cfg.deviceId
      · cases hp : pendingFull s <;> simp [hd]
      · simp [hd]
  · right
    refine ⟨h5, ?_⟩
    have h5' : ¬u.length = Config.ackSize := h5
    simp only [classify, h5', if_false]
    cases hd : frmDecode s.cfg u with
    | error reason => simp
    | ok f =>
      cases hh : frmVerifyHdr f
      · simp [hh]
      · cases hp : frmVerifyPay f
        · simp [hh, hp]
        · cases ha : addressedHere s f
          · simp [hh, hp, ha]
          · by_cases hs : seen s f.source = some f.ackBit <;> simp [hh, hp, ha, hs]

theorem classify_ackUnit (s : State) (a : AckRec) :
    classify s (ackUnit a) =
      if ackVerify a = false then .ackDropChk a
      else if a.destination ≠ s.cfg.deviceId then .ackDropAddr a
      else if pendingFull s = true then .ackDropFull a
      else .ackAccept a := by
  have h5 : (ackUnit a).length = Config.ackSize := rfl
  simp only [classify, ackFields_ackUnit, h5, if_true]
  cases ackVerify a <;> rfl

theorem classify_frameUnit {s : State} {f : DataFrame} (hl : f.payloadLength.toNat = f.payload.length)
    (hm : f.payload.length ≤ s.cfg.maxPayload) :
    classify s (frameUnit f) =
      if frmVerifyHdr f = false then .frameDropChk .header f
      else if frmVerifyPay f = false then .frameDropChk .payload f
      else if addressedHere s f = false then .frameDropAddr f
      else if seen s f.source = some f.ackBit then .frameDup f
      else .frameNew f := by
  have h5 : ¬(frameUnit f).length = Config.ackSize := by
    rw [frameUnit_length]
    simp [Config.ackSize]
  simp only [classify, h5, if_false, frmDecode_frameUnit s.cfg hl hm]
  cases frmVerifyHdr f <;> cases frmVerifyPay f <;> cases addressedHere s f <;> rfl

/-- What an outcome writes, as a frame: five fields at most (20_memory.md R63). -/
theorem applyVerdict_frame (s : State) (u : Bytes) (v : Verdict) :
    applyVerdict s u v =
      { s with
        egress := (applyVerdict s u v).egress
        ingress := (applyVerdict s u v).ingress
        pendingAcks := (applyVerdict s u v).pendingAcks
        lastSeen := (applyVerdict s u v).lastSeen
        diag := (applyVerdict s u v).diag } := by
  cases v <;> simp only [applyVerdict, State.acknowledge] <;> first | rfl | (split <;> rfl)

theorem receiveUnit_eq (s : State) (u : Bytes) :
    receiveUnit s u = if verdictHeld s (classify s u) = true then none else some (applyVerdict s u (classify s u)) := rfl

/-- The handling of a unit does not look at the unstuffer's own fields. -/
theorem classify_unstuffer (s : State) (rest buf u : Bytes) :
    classify { s with rxStream := rest, rxBuf := buf } u = classify s u := rfl

theorem verdictHeld_unstuffer (s : State) (rest buf : Bytes) (v : Verdict) :
    verdictHeld { s with rxStream := rest, rxBuf := buf } v = verdictHeld s v := by
  cases v <;> rfl

/-! ## Requests at the host ports -/

/-- A send request is refused, waits at its port, or is queued (46_host.md R251, 60_exceptions.md R270). -/
theorem sendStep_cases (r : SendReq) (taken kept : List SendReq) (s : State) :
    (s.cfg.maxPayload < r.payload.length ∧ sendStep r taken kept s = .next { s with
      sendPort := taken, diag := s.diag ++ [⟨.sendTooLong, .length r.payload.length⟩], answer := .refused }) ∨
    (r.payload.length ≤ s.cfg.maxPayload ∧ egressFull s = true ∧
      sendStep r taken kept s = .next { s with sendPort := kept, answer := .held }) ∨
    (r.payload.length ≤ s.cfg.maxPayload ∧ egressFull s = false ∧ sendStep r taken kept s = .next { s with
      sendPort := taken, egress := s.egress ++ [.data r], answer := .queued }) := by
  unfold sendStep
  split
  · exact .inl ⟨‹_›, rfl⟩
  · split
    · exact .inr (.inl ⟨Nat.le_of_not_lt ‹_›, ‹_›, rfl⟩)
    · exact .inr (.inr ⟨Nat.le_of_not_lt ‹_›, by simp_all, rfl⟩)

/-- A receive request is answered with the oldest frame, or waits at its port (46_host.md R252, 60_exceptions.md R270). -/
theorem recvStep_cases (taken kept : Nat) (s : State) :
    (∃ f rest, s.ingress = f :: rest ∧
      recvStep taken kept s = .next { s with recvPort := taken, ingress := rest, answer := .frame f }) ∨
    (s.ingress = [] ∧ recvStep taken kept s = .next { s with recvPort := kept, answer := .held }) := by
  unfold recvStep
  cases h : s.ingress with
  | nil => exact .inr ⟨rfl, rfl⟩
  | cons f rest => exact .inl ⟨f, rest, rfl, rfl⟩

/-! ## Bytes -/

theorem withByte_nil {s : State} (h : s.rxStream = []) (b : Byte) (k : Bytes → Result) :
    withByte s b k = .next { s with answer := .held } := by
  simp [withByte, takeRx, h, hold_eq]

theorem withByte_cons {s : State} {b : Byte} {rest : Bytes} (h : s.rxStream = b :: rest) (k : Bytes → Result) :
    withByte s b k = k rest := by
  simp [withByte, takeRx, h]

theorem withByte_other {s : State} {b c : Byte} {rest : Bytes} (h : s.rxStream = c :: rest) (hb : c ≠ b)
    (k : Bytes → Result) : withByte s b k = .next { s with answer := .held } := by
  simp [withByte, takeRx, h, hb, hold_eq]

/-- A byte step consumes the next byte of `rx_stream`, or waits. -/
theorem withByte_cases (s : State) (b : Byte) (k : Bytes → Result) :
    (∃ rest, s.rxStream = b :: rest ∧ withByte s b k = k rest) ∨
    ((∀ rest, s.rxStream ≠ b :: rest) ∧ withByte s b k = .next { s with answer := .held }) := by
  obtain h | ⟨c, rest, h⟩ : s.rxStream = [] ∨ ∃ c rest, s.rxStream = c :: rest := by cases s.rxStream <;> simp
  · exact .inr ⟨by simp [h], withByte_nil h b k⟩
  · by_cases hb : c = b
    · subst hb; exact .inl ⟨rest, h, withByte_cons h k⟩
    · exact .inr ⟨by simp [h, hb], withByte_other h hb k⟩

/-! ## The step that completes a unit -/

/-- The terminator case: the unit's outcome on a cleared `rx_buf`, or the hold. -/
theorem rxTerminator_eq (s : State) (rest : Bytes) :
    rxTerminator s rest = .next (
      if verdictHeld s (classify s s.rxBuf) = true then { s with answer := .held }
      else { applyVerdict { s with rxStream := rest, rxBuf := [] } s.rxBuf (classify s s.rxBuf) with answer := .void }) := by
  unfold rxTerminator receiveUnit
  rw [classify_unstuffer, verdictHeld_unstuffer]
  split <;> simp_all [State.finish, State.hold]

/-- The `FLAG`'s step where it completes a unit, and where it does not. -/
theorem flagStep_cases (s : State) :
    (∃ rest, Completes s s.rxBuf rest ∧ flagStep s = rxTerminator s rest) ∨
    ((∀ rest, ¬Completes s s.rxBuf rest) ∧ flagStep s = .next { s with answer := .held }) := by
  unfold flagStep
  by_cases he : s.rxEsc = true
  · exact .inr ⟨fun rest hc => by simp [hc.2.1] at he, if_pos he⟩
  · rw [if_neg he]
    rcases withByte_cases s Config.flag (rxTerminator s) with ⟨rest, h, hk⟩ | ⟨h, hk⟩
    · exact .inl ⟨rest, ⟨h, by simpa using he, rfl⟩, hk⟩
    · exact .inr ⟨fun rest hc => h rest hc.1, hk⟩

theorem flagStep_completes {s : State} {u rest : Bytes} (h : Completes s u rest) : flagStep s = rxTerminator s rest := by
  unfold flagStep
  rw [withByte_cons h.1]
  simp [h.2.1]

/-- `RX.UNIT u` where its `FLAG` is next: held with nothing else written, or the byte consumed, `rx_buf` empty, and the
outcome's effect. -/
theorem unitStep_eq {s : State} {u rest : Bytes} (h : Completes s u rest) :
    unitStep s u = .next (if verdictHeld s (classify s u) = true then { s with answer := .held }
      else { applyVerdict { s with rxStream := rest, rxBuf := [] } u (classify s u) with answer := .void }) := by
  unfold unitStep
  rw [if_pos h.2.2, flagStep_completes h, rxTerminator_eq, h.2.2]

/-- `RX.UNIT u` where `u` is not the unit that the next byte completes. -/
theorem unitStep_hold {s : State} {u : Bytes} (h : ∀ rest, ¬Completes s u rest) :
    unitStep s u = .next { s with answer := .held } := by
  unfold unitStep
  split
  · rename_i hb
    rcases flagStep_cases s with ⟨rest, hc, -⟩ | ⟨-, hf⟩
    · exact absurd (hb ▸ hc) (h rest)
    · exact hf
  · rfl

/-- The terminator's byte is the `FLAG`'s step. -/
theorem execBtRxbyte_flag {s : State} (h : s.rxEsc = false) : execBtRxbyte Config.flag s = flagStep s := by
  simp [execBtRxbyte, flagStep, h]

theorem unitStep_rxBuf (s : State) : unitStep s s.rxBuf = flagStep s := if_pos rfl

theorem outcomeStep_eq (s : State) (u : Bytes) (v : Verdict) :
    outcomeStep s u v = if classify s u = v then unitStep s u else .next { s with answer := .held } := rfl

end Sys2Proof.Laws
end

