-- ==== Sys2Proof/Laws/Agents.lean ====
section
/-! SUPPORT. Everything a step of each agent can do, guards included, said once: later proofs about all operations cite
these and unfold no meaning. -/

namespace Sys2Proof.Laws

open Sys2Proof Sys2Proof.Machine

/-! ## Every operation answers a next state -/

theorem unitStep_next (s : State) (u : Bytes) : ∃ t, unitStep s u = .next t := by
  by_cases h : ∃ rest, Completes s u rest
  · obtain ⟨rest, h⟩ := h; exact ⟨_, unitStep_eq h⟩
  · exact ⟨_, unitStep_hold fun rest hc => h ⟨rest, hc⟩⟩

theorem outcomeStep_next (s : State) (u : Bytes) (v : Verdict) : ∃ t, outcomeStep s u v = .next t := by
  rw [outcomeStep_eq]
  split
  · exact unitStep_next _ _
  · exact ⟨_, rfl⟩

/-! ## The Receiver -/

/-- The effect of an outcome does not depend on the unstuffer's own fields. -/
theorem applyVerdict_unstuffer (s : State) (rest buf u : Bytes) (v : Verdict) :
    applyVerdict { s with rxStream := rest, rxBuf := buf } u v =
      { applyVerdict s u v with rxStream := rest, rxBuf := buf } := by
  cases v
  case frameDup f | frameNew f =>
    by_cases hb : f.destination = s.cfg.broadcastAddr <;>
      simp [applyVerdict, State.acknowledge, unicast, State.emit, State.recordSeen, State.enqIngress, State.enqEgress, hb]
  all_goals rfl

/-- What a step of the Receiver can leave: nothing but the answer written; or the next byte of `rx_stream` consumed, and either
it joins the unit or changes `rx_esc`, or it completes the unit `rx_buf` and the outcome, not a held one, takes effect. -/
inductive ReceiverEffect (s : State) : State → Prop where
  | held : ReceiverEffect s { s with answer := .held }
  | byte (b : Byte) (rest buf : Bytes) (esc : Bool) (h : s.rxStream = b :: rest) :
      ReceiverEffect s { s with rxStream := rest, rxBuf := buf, rxEsc := esc, answer := .void }
  | unit (rest : Bytes) (h : Completes s s.rxBuf rest) (hv : verdictHeld s (classify s s.rxBuf) = false) :
      ReceiverEffect s { applyVerdict s s.rxBuf (classify s s.rxBuf) with rxStream := rest, rxBuf := [], answer := .void }

theorem flagStep_effect {s t : State} (h : flagStep s = .next t) : ReceiverEffect s t := by
  rcases flagStep_cases s with ⟨rest, hc, hf⟩ | ⟨-, hf⟩
  · rw [hf, rxTerminator_eq] at h
    cases h
    split
    · exact .held
    · rename_i hv
      rw [applyVerdict_unstuffer]
      exact .unit rest hc (by simpa using hv)
  · rw [hf] at h; cases h; exact .held

theorem unitStep_effect {s t : State} {u : Bytes} (h : unitStep s u = .next t) : ReceiverEffect s t := by
  unfold unitStep at h
  split at h
  · exact flagStep_effect h
  · cases h; exact .held

theorem outcomeStep_effect {s t : State} {u : Bytes} {v : Verdict} (h : outcomeStep s u v = .next t) :
    ReceiverEffect s t := by
  rw [outcomeStep_eq] at h
  split at h
  · exact unitStep_effect h
  · cases h; exact .held

theorem withByte_effect {s t : State} {b : Byte} {k : Bytes → Result}
    (hk : ∀ rest, s.rxStream = b :: rest → k rest = .next t → ReceiverEffect s t) (h : withByte s b k = .next t) :
    ReceiverEffect s t := by
  rcases withByte_cases s b k with ⟨rest, hs, hr⟩ | ⟨-, hr⟩
  · exact hk rest hs (hr ▸ h)
  · rw [hr] at h; cases h; exact .held

/-- Every step of the Receiver. -/
theorem rx_effect {i : Instr} {s t : State} (hi : agentOf i = some .rx) (h : exec i s = .next t) : ReceiverEffect s t := by
  cases i <;> first | (cases hi; done) | simp only [exec] at h
  all_goals first
    | exact unitStep_effect h
    | exact outcomeStep_effect h
    | exact flagStep_effect h
    | skip
  case btRxbyte b =>
    refine withByte_effect (fun rest hs hr => ?_) h
    split at hr
    · cases hr; exact .byte _ _ _ _ hs
    · rename_i he
      split at hr
      · rename_i hb
        subst hb
        refine flagStep_effect (t := t) ?_
        rw [flagStep_completes ⟨hs, by simpa using he, rfl⟩, hr]
      · split at hr <;> (cases hr; exact .byte _ _ _ _ hs)
  case wEsc =>
    unfold execWEsc at h
    split at h
    · cases h; exact .held
    · exact withByte_effect (fun rest hs hr => by cases hr; exact .byte _ _ _ _ hs) h
  case wLiteral b =>
    unfold execWLiteral at h
    split at h
    · cases h; exact .held
    · exact withByte_effect (fun rest hs hr => by cases hr; exact .byte _ _ _ _ hs) h
  case wEscaped b =>
    unfold execWEscaped at h
    split at h
    · exact withByte_effect (fun rest hs hr => by cases hr; exact .byte _ _ _ _ hs) h
    · cases h; exact .held

/-! ## The Transmitter -/

/-- What a step of the Transmitter can leave, each with its guard (44_transmitter.md R191 to R199). -/
inductive TransmitterEffect (s : State) : Instr → State → Prop where
  | held (i : Instr) : TransmitterEffect s i { s with answer := .held }
  | deqAck (source destination number : Byte) (rest : List EgressItem) (hi : s.txState = .idle)
      (he : s.egress = .ackOut source destination number :: rest) :
      TransmitterEffect s .txDeqAck { s with
        egress := rest, txStream := s.txStream ++ btSend (ackEncode source destination number), answer := .void }
  | deqFrame (r : SendReq) (rest : List EgressItem) (hi : s.txState = .idle) (he : s.egress = .data r :: rest)
      (hd : r.destination ≠ s.cfg.broadcastAddr) :
      TransmitterEffect s .txDeqFrame { s with
        egress := rest
        txStream := s.txStream ++ btSend (frameUnit (stamp s r))
        txState := .awaitingAck (stamp s r) s.now 0
        answer := .void }
  | deqBcast (r : SendReq) (rest : List EgressItem) (hi : s.txState = .idle) (he : s.egress = .data r :: rest)
      (hd : r.destination = s.cfg.broadcastAddr) :
      TransmitterEffect s .txDeqBcast { s with
        egress := rest, txStream := s.txStream ++ btSend (frameUnit (stamp s r)), answer := .void }
  | bypassAck (f : DataFrame) (t a : Nat) (source destination number : Byte) (rest : List EgressItem)
      (hi : s.txState = .awaitingAck f t a) (he : s.egress = .ackOut source destination number :: rest) :
      TransmitterEffect s .txBypassAck { s with
        egress := rest, txStream := s.txStream ++ btSend (ackEncode source destination number), answer := .void }
  | ackMatch (f : DataFrame) (t a : Nat) (e : AckRec) (hi : s.txState = .awaitingAck f t a) (he : e ∈ s.pendingAcks)
      (hg : genuine s f e = true) :
      TransmitterEffect s (.txAckMatch e) { s with
        pendingAcks := s.pendingAcks.erase e, nextAckToSend := 1 - s.nextAckToSend, txState := .idle, answer := .void }
  | ackStale (f : DataFrame) (t a : Nat) (e : AckRec) (hi : s.txState = .awaitingAck f t a) (he : e ∈ s.pendingAcks)
      (hg : stale s f e = true) :
      TransmitterEffect s (.txAckStale e) { s with
        pendingAcks := s.pendingAcks.erase e, diag := s.diag ++ [⟨.staleAck, .ack e⟩], answer := .void }
  | resend (f : DataFrame) (t a : Nat) (hi : s.txState = .awaitingAck f t a) (hx : expired s t = true)
      (ha : a < s.cfg.maxResend) (hg : genuinePending s f = false) :
      TransmitterEffect s .txResend { s with
        txStream := s.txStream ++ btSend (frameUnit f)
        diag := s.diag ++ [⟨.resend, .attempts (a + 1)⟩]
        txState := .awaitingAck f s.now (a + 1)
        answer := .void }
  | abandon (f : DataFrame) (t a : Nat) (hi : s.txState = .awaitingAck f t a) (hx : expired s t = true)
      (ha : a = s.cfg.maxResend) (hg : genuinePending s f = false) :
      TransmitterEffect s .txAbandon { s with
        diag := s.diag ++ [⟨.abandon, .header (headerOf f)⟩], txState := .idle, answer := .void }

/-- Every step of the Transmitter. -/
theorem tx_effect {i : Instr} {s t : State} (hi : agentOf i = some .tx) (h : exec i s = .next t) :
    TransmitterEffect s i t := by
  cases i <;> first | (cases hi; done) | simp only [exec] at h
  case txDeqAck =>
    unfold execTxDeqAck at h
    split at h
    · rename_i source destination number rest hs he
      cases h
      simpa [sendAck, State.deqEgress, State.transmit, he] using TransmitterEffect.deqAck source destination number rest hs he
    · cases h; exact .held _
  case txDeqFrame =>
    unfold execTxDeqFrame at h
    split at h
    · rename_i r rest hs he
      split at h
      · rename_i hd
        cases h
        simpa [State.deqEgress, State.transmit, State.setTx, he] using TransmitterEffect.deqFrame r rest hs he hd
      · cases h; exact .held _
    · cases h; exact .held _
  case txDeqBcast =>
    unfold execTxDeqBcast at h
    split at h
    · rename_i r rest hs he
      split at h
      · rename_i hd
        cases h
        simpa [State.deqEgress, State.transmit, he] using TransmitterEffect.deqBcast r rest hs he hd
      · cases h; exact .held _
    · cases h; exact .held _
  case txBypassAck =>
    unfold execTxBypassAck at h
    split at h
    · rename_i f t a source destination number rest hs he
      cases h
      simpa [sendAck, State.deqEgress, State.transmit, he] using
        TransmitterEffect.bypassAck f t a source destination number rest hs he
    · cases h; exact .held _
  case txAckMatch e =>
    unfold execTxAckMatch at h
    split at h
    · rename_i f t a hs
      split at h
      · rename_i hg
        simp only [Bool.and_eq_true, List.contains_iff_mem] at hg
        cases h
        exact .ackMatch f t a e hs hg.1 hg.2
      · cases h; exact .held _
    · cases h; exact .held _
  case txAckStale e =>
    unfold execTxAckStale at h
    split at h
    · rename_i f t a hs
      split at h
      · rename_i hg
        simp only [Bool.and_eq_true, List.contains_iff_mem] at hg
        cases h
        exact .ackStale f t a e hs hg.1 hg.2
      · cases h; exact .held _
    · cases h; exact .held _
  case txResend =>
    unfold execTxResend at h
    split at h
    · rename_i f t a hs
      split at h
      · rename_i hg
        simp only [Bool.and_eq_true, decide_eq_true_eq, Bool.not_eq_true'] at hg
        cases h
        exact .resend f t a hs hg.1.1 hg.1.2 hg.2
      · cases h; exact .held _
    · cases h; exact .held _
  case txAbandon =>
    unfold execTxAbandon at h
    split at h
    · rename_i f t a hs
      split at h
      · rename_i hg
        simp only [Bool.and_eq_true, decide_eq_true_eq, Bool.not_eq_true'] at hg
        cases h
        exact .abandon f t a hs hg.1.1 hg.1.2 hg.2
      · cases h; exact .held _
    · cases h; exact .held _

/-! ## The host, the environment, the pure functions -/

/-- Every operation of the host, a new request. -/
theorem host_effect {i : Instr} {s t : State} (hi : agentOf i = some .host) (h : exec i s = .next t) :
    (∃ r : SendReq, r.payload.length ≤ s.cfg.maxPayload ∧ egressFull s = true ∧ i = .hostSend r.destination r.payload ∧
      t = { s with sendPort := s.sendPort ++ [r], answer := .held }) ∨
    (∃ r : SendReq, s.cfg.maxPayload < r.payload.length ∧ i = .hostSend r.destination r.payload ∧
      t = { s with diag := s.diag ++ [⟨.sendTooLong, .length r.payload.length⟩], answer := .refused }) ∨
    (∃ r : SendReq, r.payload.length ≤ s.cfg.maxPayload ∧ egressFull s = false ∧ i = .hostSend r.destination r.payload ∧
      t = { s with egress := s.egress ++ [.data r], answer := .queued }) ∨
    (s.ingress = [] ∧ i = .hostRecv ∧ t = { s with recvPort := s.recvPort + 1, answer := .held }) ∨
    (∃ f rest, s.ingress = f :: rest ∧ i = .hostRecv ∧ t = { s with ingress := rest, answer := .frame f }) := by
  cases i <;> first | (cases hi; done) | simp only [exec] at h
  case hostSend destination payload =>
    unfold execHostSend at h
    rcases sendStep_cases ⟨destination, payload⟩ s.sendPort (s.sendPort ++ [⟨destination, payload⟩]) s with
      ⟨hl, hr⟩ | ⟨hl, hf, hr⟩ | ⟨hl, hf, hr⟩
    · cases hr ▸ h; exact .inr (.inl ⟨⟨destination, payload⟩, hl, rfl, rfl⟩)
    · cases hr ▸ h; exact .inl ⟨⟨destination, payload⟩, hl, hf, rfl, rfl⟩
    · cases hr ▸ h; exact .inr (.inr (.inl ⟨⟨destination, payload⟩, hl, hf, rfl, rfl⟩))
  case hostRecv =>
    unfold execHostRecv at h
    rcases recvStep_cases s.recvPort (s.recvPort + 1) s with ⟨f, rest, hg, hr⟩ | ⟨hg, hr⟩
    · cases hr ▸ h; exact .inr (.inr (.inr (.inr ⟨f, rest, hg, rfl, rfl⟩)))
    · cases hr ▸ h; exact .inr (.inr (.inr (.inl ⟨hg, rfl, rfl⟩)))

/-- Every step of a pending request: it waits and nothing is written, or it leaves its port refused, queued or answered. -/
theorem port_effect {p : PortStep} {s t : State} (h : portStep p s = .next t) :
    t = { s with answer := .held } ∨
    (∃ k r, p = .send k ∧ s.sendPort[k]? = some r ∧ s.cfg.maxPayload < r.payload.length ∧
      t = { s with
        sendPort := s.sendPort.eraseIdx k
        diag := s.diag ++ [⟨.sendTooLong, .length r.payload.length⟩]
        answer := .refused }) ∨
    (∃ k r, p = .send k ∧ s.sendPort[k]? = some r ∧ r.payload.length ≤ s.cfg.maxPayload ∧ egressFull s = false ∧
      t = { s with sendPort := s.sendPort.eraseIdx k, egress := s.egress ++ [.data r], answer := .queued }) ∨
    (∃ f rest, p = .recv ∧ s.recvPort ≠ 0 ∧ s.ingress = f :: rest ∧
      t = { s with recvPort := s.recvPort - 1, ingress := rest, answer := .frame f }) := by
  cases p with
  | send k =>
    simp only [portStep] at h
    split at h
    · rename_i r hk
      rcases sendStep_cases r (s.sendPort.eraseIdx k) s.sendPort s with ⟨hl, hr⟩ | ⟨hl, hf, hr⟩ | ⟨hl, hf, hr⟩
      · cases hr ▸ h; exact .inr (.inl ⟨k, r, rfl, hk, hl, rfl⟩)
      · cases hr ▸ h; exact .inl rfl
      · cases hr ▸ h; exact .inr (.inr (.inl ⟨k, r, rfl, hk, hl, hf, rfl⟩))
    · cases h; exact .inl rfl
  | recv =>
    simp only [portStep] at h
    split at h
    · cases h; exact .inl rfl
    · rename_i hn
      rcases recvStep_cases (s.recvPort - 1) s.recvPort s with ⟨f, rest, hg, hr⟩ | ⟨hg, hr⟩
      · cases hr ▸ h; exact .inr (.inr (.inr ⟨f, rest, rfl, hn, hg, rfl⟩))
      · cases hr ▸ h; exact .inl rfl

/-- The pure functions write no state of the card: the accumulator between `CHK.INIT` and `CHK.FINAL`, the answer, and the
count of free values used. -/
theorem pure_effect {i : Instr} {s t : State} (hi : agentOf i = none) (h : exec i s = .next t) :
    ∃ a n, ∃ x : Answer, t = { s with acc := a, answer := x, freeCount := n } ∧ (s.acc.toNat ≤ 0xFFFF → a.toNat ≤ 0xFFFF) := by
  cases i <;> first | (cases hi; done) | simp only [exec] at h
  case chkInit => cases h; exact ⟨0, _, _, rfl, fun _ => by decide⟩
  case chkAdd v => cases h; exact ⟨_, _, _, rfl, fun _ => chkAdd_le _ _⟩
  case frmEncode => unfold execFrmEncode at h; split at h <;> (cases h; exact ⟨_, _, _, rfl, id⟩)
  case frmDecode => unfold execFrmDecode at h; split at h <;> (cases h; exact ⟨_, _, _, rfl, id⟩)
  case ackDecode => unfold execAckDecode at h; split at h <;> (cases h; exact ⟨_, _, _, rfl, id⟩)
  case btRecv => unfold execBtRecv at h; split at h <;> (cases h; exact ⟨_, _, _, rfl, id⟩)
  all_goals (cases h; exact ⟨_, _, _, rfl, id⟩)

/-- Every step of the environment. -/
theorem env_effect {i : Instr} {s t : State} (hi : agentOf i = some .env) (h : exec i s = .next t) :
    (i = .envTick ∧ t = { s with now := s.now + 1, answer := .void }) ∨
    (∃ c, i = .reset c ∧
      ((c.legal = false ∧ t = { s with answer := .refused }) ∨
       (c.legal = true ∧ t = { State.resetWith c with
          schedule := s.schedule, freeCount := s.freeCount, answer := .void }))) := by
  cases i <;> first | (cases hi; done) | simp only [exec] at h
  case envTick => cases h; exact .inl ⟨rfl, rfl⟩
  case reset c =>
    unfold execReset at h
    split at h
    · rename_i hl; cases h; exact .inr ⟨c, rfl, .inr ⟨hl, rfl⟩⟩
    · rename_i hl; cases h; exact .inr ⟨c, rfl, .inl ⟨by simpa using hl, rfl⟩⟩

/-- An event of the medium writes `rx_stream` alone. -/
theorem mediumStep_frame (e : MediumEvent) (s : State) :
    mediumStep e s = { s with rxStream := (mediumStep e s).rxStream } := by
  cases e <;> rfl

/-- Every operation is a step of one of the four agents or a pure function. -/
theorem agent_cases (i : Instr) :
    agentOf i = none ∨ agentOf i = some .host ∨ agentOf i = some .tx ∨ agentOf i = some .rx ∨ agentOf i = some .env := by
  cases i <;> simp [agentOf]

end Sys2Proof.Laws
end

