-- ==== Sys2Proof/Laws/Decode.lean ====
section
/-! SUPPORT. The operand layout both ways: what each reader gives on what its writer wrote, and that what a reader takes is
what its writer writes. -/

namespace Sys2Proof.Laws

open Sys2Proof Sys2Proof.Machine

/-! ## Natural numbers -/

theorem takeNat_putNatFuel (k n : Nat) (rest : Bytes) (h : n ≤ k) : takeNat (putNatFuel k n ++ rest) = some (n, rest) := by
  induction k generalizing n with
  | zero => obtain rfl : n = 0 := by omega
            rfl
  | succ k ih =>
    simp only [putNatFuel]
    split
    · rename_i hn
      have ht : (BitVec.ofNat 8 n).toNat = n := by simp only [BitVec.toNat_ofNat]; omega
      simp [takeNat, ht, hn]
    · rename_i hn
      have ht : (BitVec.ofNat 8 (128 + n % 128)).toNat = 128 + n % 128 := by simp only [BitVec.toNat_ofNat]; omega
      obtain ⟨q, hq⟩ : ∃ q, n / 128 = q + 1 := ⟨n / 128 - 1, by omega⟩
      simp only [List.cons_append, takeNat, ht]
      rw [if_neg (by omega), ih _ (by omega), hq]
      simp only [Option.some.injEq, Prod.mk.injEq, and_true]
      omega

theorem takeNat_putNat (n : Nat) (rest : Bytes) : takeNat (putNat n ++ rest) = some (n, rest) :=
  takeNat_putNatFuel n n rest (Nat.le_refl n)

theorem putNatFuel_stable (k n : Nat) (h : n ≤ k) : putNatFuel k n = putNat n := by
  induction k using Nat.strong_induction_on generalizing n with
  | _ k ih =>
    rcases Nat.eq_or_lt_of_le h with rfl | hlt
    · rfl
    · cases k with
      | zero => omega
      | succ k =>
        cases n with
        | zero => rfl
        | succ n =>
          simp only [putNat, putNatFuel]
          split
          · rfl
          · rw [ih k (by omega) _ (by omega), ih n (by omega) _ (by omega)]

theorem putNat_takeNat {bs : Bytes} {n : Nat} {rest : Bytes} (h : takeNat bs = some (n, rest)) :
    bs = putNat n ++ rest := by
  induction bs generalizing n with
  | nil => cases h
  | cons b bs ih =>
    simp only [takeNat] at h
    have hb := b.isLt
    split at h
    · rename_i hlt
      cases h
      have hp : putNat b.toNat = [b] := by
        unfold putNat
        cases hn : b.toNat with
        | zero => simp only [putNatFuel]; rw [← hn]; simp
        | succ k => simp only [putNatFuel]; rw [if_pos (by omega), ← hn]; simp
      rw [hp]; rfl
    · split at h
      · cases h
      · cases h
      · rename_i hlt q r hq
        cases h
        have hbs := ih hq
        have hp : putNat (b.toNat - 128 + 128 * (q + 1)) = b :: putNat (q + 1) := by
          obtain ⟨m, hm⟩ : ∃ m, b.toNat - 128 + 128 * (q + 1) = m + 1 := ⟨_, (Nat.succ_pred (by omega)).symm⟩
          rw [hm, putNat, putNatFuel, if_neg (by omega), ← hm]
          have h1 : 128 + (b.toNat - 128 + 128 * (q + 1)) % 128 = b.toNat := by omega
          have h2 : (b.toNat - 128 + 128 * (q + 1)) / 128 = q + 1 := by omega
          rw [h1, h2, putNatFuel_stable _ _ (by omega)]
          simp
        rw [hp, hbs]; rfl

/-! ## Fixed parts -/

theorem takeHalf_putHalf (v : Half) (rest : Bytes) : takeHalf (putHalf v ++ rest) = some (v, rest) := by
  simp [takeHalf, putHalf, be16_hi8_lo8]

theorem putHalf_takeHalf {bs : Bytes} {v : Half} {rest : Bytes} (h : takeHalf bs = some (v, rest)) :
    bs = putHalf v ++ rest := by
  match bs, h with
  | a :: b :: r, h => cases h; simp [putHalf, hi8_be16, lo8_be16]

theorem takeAckUnit_ackUnit (a : AckRec) (rest : Bytes) : takeAckUnit (ackUnit a ++ rest) = some (a, rest) := by
  simp [takeAckUnit, ackUnit, be16_hi8_lo8]

theorem ackUnit_takeAckUnit {bs : Bytes} {a : AckRec} {rest : Bytes} (h : takeAckUnit bs = some (a, rest)) :
    bs = ackUnit a ++ rest := by
  match bs, h with
  | _ :: _ :: _ :: _ :: _ :: r, h => cases h; simp [ackUnit, hi8_be16, lo8_be16]

theorem takeByte_cons (b : Byte) (rest : Bytes) : takeByte (b :: rest) = some (b, rest) := rfl

theorem cons_takeByte {bs : Bytes} {b : Byte} {rest : Bytes} (h : takeByte bs = some (b, rest)) : bs = b :: rest := by
  match bs, h with
  | _ :: _, h => cases h; rfl

theorem takeReason_putReason (q : LenReason) (rest : Bytes) : takeReason (putReason q :: rest) = some (q, rest) := by
  cases q <;> rfl

theorem putReason_takeReason {bs : Bytes} {q : LenReason} {rest : Bytes} (h : takeReason bs = some (q, rest)) :
    bs = putReason q :: rest := by
  unfold takeReason at h
  split at h <;> cases h <;> rfl

theorem takeWhich_putWhich (w : CheckWhich) (rest : Bytes) : takeWhich (putWhich w :: rest) = some (w, rest) := by
  cases w <;> rfl

theorem putWhich_takeWhich {bs : Bytes} {w : CheckWhich} {rest : Bytes} (h : takeWhich bs = some (w, rest)) :
    bs = putWhich w :: rest := by
  unfold takeWhich at h
  split at h <;> cases h <;> rfl

/-! ## Sequences -/

theorem takeBytes_putBytes (u rest : Bytes) : takeBytes (putBytes u ++ rest) = some (u, rest) := by
  simp [takeBytes, putBytes, takeNat_putNat]

theorem putBytes_takeBytes {bs u rest : Bytes} (h : takeBytes bs = some (u, rest)) : bs = putBytes u ++ rest := by
  unfold takeBytes at h
  split at h
  · cases h
  · rename_i n r hn
    split at h
    · rename_i hle
      cases h
      rw [putNat_takeNat hn, putBytes, List.length_take, Nat.min_eq_left hle, List.append_assoc, List.take_append_drop]
    · cases h

theorem takeHalvesN_putHalf (vs : List Half) (rest : Bytes) :
    takeHalvesN vs.length (vs.flatMap putHalf ++ rest) = some (vs, rest) := by
  induction vs with
  | nil => rfl
  | cons v vs ih => simp [takeHalvesN, List.append_assoc, takeHalf_putHalf, ih]

theorem putHalf_takeHalvesN {n : Nat} {bs : Bytes} {vs : List Half} {rest : Bytes}
    (h : takeHalvesN n bs = some (vs, rest)) : bs = vs.flatMap putHalf ++ rest ∧ vs.length = n := by
  induction n generalizing bs vs with
  | zero => cases h; exact ⟨rfl, rfl⟩
  | succ n ih =>
    simp only [takeHalvesN] at h
    split at h
    · cases h
    · rename_i v r hv
      split at h
      · cases h
      · rename_i ws r' hws
        cases h
        obtain ⟨h1, h2⟩ := ih hws
        exact ⟨by rw [putHalf_takeHalf hv, h1]; simp, by simp [h2]⟩

theorem takeHalves_putHalves (vs : List Half) (rest : Bytes) : takeHalves (putHalves vs ++ rest) = some (vs, rest) := by
  simp [takeHalves, putHalves, List.append_assoc, takeNat_putNat, takeHalvesN_putHalf]

theorem putHalves_takeHalves {bs : Bytes} {vs : List Half} {rest : Bytes} (h : takeHalves bs = some (vs, rest)) :
    bs = putHalves vs ++ rest := by
  unfold takeHalves at h
  split at h
  · cases h
  · rename_i n r hn
    obtain ⟨h1, h2⟩ := putHalf_takeHalvesN h
    rw [putNat_takeNat hn, putHalves, h1, h2, List.append_assoc]

/-! ## Frames, configurations -/

theorem takeFrame_putFrame (f : DataFrame) (rest : Bytes) : takeFrame (putFrame f ++ rest) = some (f, rest) := by
  simp [takeFrame, putFrame, takeBytes_putBytes, be16_hi8_lo8]

theorem putFrame_takeFrame {bs : Bytes} {f : DataFrame} {rest : Bytes} (h : takeFrame bs = some (f, rest)) :
    bs = putFrame f ++ rest := by
  unfold takeFrame at h
  split at h
  · split at h
    · cases h
    · rename_i p r hp
      cases h
      rw [putBytes_takeBytes hp]
      simp [putFrame, hi8_be16, lo8_be16]
  · cases h

theorem takeFrameUnit_frameUnit {f : DataFrame} (hl : f.payloadLength.toNat = f.payload.length) (rest : Bytes) :
    takeFrameUnit (frameUnit f ++ rest) = some (f, rest) := by
  simp [takeFrameUnit, frameUnit, be16_hi8_lo8, hl]

theorem frameUnit_takeFrameUnit {bs : Bytes} {f : DataFrame} {rest : Bytes} (h : takeFrameUnit bs = some (f, rest)) :
    bs = frameUnit f ++ rest ∧ f.payloadLength.toNat = f.payload.length := by
  unfold takeFrameUnit at h
  split at h
  · rename_i s d a lh ll hh hl r
    simp only at h
    split at h
    · rename_i ph pl r' hd
      cases h
      have hr : r = r.take (be16 lh ll).toNat ++ ph :: pl :: rest := by rw [← hd, List.take_append_drop]
      have hle : (be16 lh ll).toNat ≤ r.length := by
        have := congrArg List.length hd
        simp only [List.length_drop, List.length_cons] at this
        omega
      refine ⟨?_, by simp [Nat.min_eq_left hle]⟩
      simp only [frameUnit, hi8_be16, lo8_be16]
      simp [← hr]
    · cases h
  · cases h

theorem takeCapacity_putCapacity (c : Capacity) (rest : Bytes) : takeCapacity (putCapacity c ++ rest) = some (c, rest) := by
  cases c with
  | unbounded => rfl
  | bounded n => simp [takeCapacity, putCapacity, takeNat_putNat]

theorem putCapacity_takeCapacity {bs : Bytes} {c : Capacity} {rest : Bytes} (h : takeCapacity bs = some (c, rest)) :
    bs = putCapacity c ++ rest := by
  unfold takeCapacity at h
  split at h
  · cases h; rfl
  · simp only [Option.map_eq_some_iff] at h
    obtain ⟨⟨n, r⟩, hn, he⟩ := h
    cases he
    rw [putNat_takeNat hn]; rfl
  · cases h

theorem takeConfiguration_putConfiguration (c : Configuration) (rest : Bytes) :
    takeConfiguration (putConfiguration c ++ rest) = some (c, rest) := by
  simp [takeConfiguration, putConfiguration, takeByte, List.append_assoc, takeNat_putNat, takeCapacity_putCapacity]

theorem putConfiguration_takeConfiguration {bs : Bytes} {c : Configuration} {rest : Bytes}
    (h : takeConfiguration bs = some (c, rest)) : bs = putConfiguration c ++ rest := by
  simp only [takeConfiguration, Option.bind_eq_bind, Option.bind_eq_some_iff, Option.some.injEq, Prod.exists] at h
  obtain ⟨d, r1, h1, b, r2, h2, p, r3, h3, m, r4, h4, t, r5, h5, k, r6, h6, e, r7, h7, i, r8, h8, q, r9, h9, he⟩ := h
  cases he
  rw [cons_takeByte h1, cons_takeByte h2, putNat_takeNat h3, putNat_takeNat h4, putNat_takeNat h5, putNat_takeNat h6,
    putNat_takeNat h7, putCapacity_takeCapacity h8, putCapacity_takeCapacity h9]
  simp [putConfiguration]

/-! ## Operations -/

theorem decodeOperands_operandBytes {i : Instr} (h : i.wellFormed = true) (rest : Bytes) :
    decodeOperands i.identifier (i.operandBytes ++ rest) = some (i, rest) := by
  cases i
  case wLiteral b =>
    simp only [Instr.wellFormed, Bool.and_eq_true, decide_eq_true_eq] at h
    simp [Instr.identifier, Instr.operandBytes, decodeOperands, h]
  case uData f =>
    simp only [Instr.wellFormed, decide_eq_true_eq] at h
    simp [Instr.identifier, Instr.operandBytes, decodeOperands, takeFrameUnit_frameUnit h]
  all_goals simp [Instr.identifier, Instr.operandBytes, decodeOperands, takeHalf_putHalf, takeHalves_putHalves,
    takeBytes_putBytes, takeFrame_putFrame, takeAckUnit_ackUnit, takeByte_cons, takeReason_putReason, takeWhich_putWhich,
    takeConfiguration_putConfiguration]

theorem operandBytes_decodeOperands {op : Byte} {bs : Bytes} {i : Instr} {rest : Bytes}
    (h : decodeOperands op bs = some (i, rest)) :
    i.wellFormed = true ∧ op = i.identifier ∧ bs = i.operandBytes ++ rest := by
  unfold decodeOperands at h
  split at h
  all_goals try (simp only [Option.map_eq_some_iff, Prod.exists] at h; obtain ⟨v, r, hv, he⟩ := h; cases he)
  all_goals try (split at h <;> try cases h)
  all_goals try (simp only [Option.map_eq_some_iff, Prod.exists] at h; obtain ⟨v, r, hv, he⟩ := h; cases he)
  all_goals try (cases h)
  all_goals first
    | exact ⟨rfl, rfl, rfl⟩
    | exact ⟨rfl, rfl, putHalf_takeHalf hv⟩
    | exact ⟨rfl, rfl, putHalves_takeHalves hv⟩
    | exact ⟨rfl, rfl, putBytes_takeBytes hv⟩
    | exact ⟨rfl, rfl, putFrame_takeFrame hv⟩
    | exact ⟨rfl, rfl, ackUnit_takeAckUnit hv⟩
    | exact ⟨rfl, rfl, cons_takeByte hv⟩
    | exact ⟨rfl, rfl, putConfiguration_takeConfiguration hv⟩
    | exact ⟨decide_eq_true (frameUnit_takeFrameUnit hv).2, rfl, (frameUnit_takeFrameUnit hv).1⟩
    | skip
  · exact ⟨rfl, rfl, by rw [putBytes_takeBytes hv]; rfl⟩
  · rename_i hq
    exact ⟨rfl, rfl, by rw [putReason_takeReason hq, putBytes_takeBytes hv]; rfl⟩
  · rename_i hw
    exact ⟨rfl, rfl, by rw [putWhich_takeWhich hw, putFrame_takeFrame hv]; rfl⟩
  · exact ⟨rfl, rfl, by rw [putBytes_takeBytes hv]; rfl⟩
  · split at h
    · cases h
    · rename_i hb
      cases h
      exact ⟨by simpa [Instr.wellFormed] using hb, rfl, rfl⟩

theorem identifier_mem (i : Instr) : identifiers.contains i.identifier = true := by cases i <;> rfl

/-! ## The medium's events -/

theorem takeMedium_encodeMedium (e : MediumEvent) (rest : Bytes) : takeMedium (encodeMedium e ++ rest) = some (e, rest) := by
  cases e <;> simp [encodeMedium, takeMedium, takeNat_putNat, takeByte]

/-- No operation starts as an event does. -/
theorem decode_encodeMedium (e : MediumEvent) (rest : Bytes) : ∃ why, decode (encodeMedium e ++ rest) = .error why := by
  cases e <;> exact ⟨_, rfl⟩

/-! ## The steps of pending requests -/

theorem takePort_encodePort (p : PortStep) (rest : Bytes) : takePort (encodePort p ++ rest) = some (p, rest) := by
  cases p <;> simp [encodePort, takePort, takeNat_putNat]

/-- No operation and no event of the medium starts as such a step does. -/
theorem decode_encodePort (p : PortStep) (rest : Bytes) :
    (∃ why, decode (encodePort p ++ rest) = .error why) ∧ takeMedium (encodePort p ++ rest) = none := by
  cases p <;> exact ⟨⟨_, rfl⟩, rfl⟩

end Sys2Proof.Laws
end

