-- ==== Sys2Proof/Laws/PerInstr.lean ====
section
/-! SUPPORT. One lemma per operation: its encoding begins with its identifier, and the decoder knows that identifier
(30_encoding.md R110, R111; the last four identifiers are the model's, log 2). -/

namespace Sys2Proof.Laws.EncodeFront

/-- The encoding of `i` is its identifier, which is one the decoder knows, and operand bytes. -/
def Statement (i : Instr) : Prop :=
  ∃ operands : Bytes, encode i = i.identifier :: operands ∧ identifiers.contains i.identifier = true

theorem chkInit : Statement .chkInit := ⟨_, rfl, rfl⟩
theorem chkAdd (v : Half) : Statement (.chkAdd v) := ⟨_, rfl, rfl⟩
theorem chkFinal : Statement .chkFinal := ⟨_, rfl, rfl⟩
theorem chkSum (values : List Half) : Statement (.chkSum values) := ⟨_, rfl, rfl⟩
theorem frmEncode (source destination ackBit : Byte) (payload : Bytes) : Statement (.frmEncode source destination ackBit payload) := ⟨_, rfl, rfl⟩
theorem frmDecode (u : Bytes) : Statement (.frmDecode u) := ⟨_, rfl, rfl⟩
theorem frmVerifyHdr (f : DataFrame) : Statement (.frmVerifyHdr f) := ⟨_, rfl, rfl⟩
theorem frmVerifyPay (f : DataFrame) : Statement (.frmVerifyPay f) := ⟨_, rfl, rfl⟩
theorem ackEncode (source destination number : Byte) : Statement (.ackEncode source destination number) := ⟨_, rfl, rfl⟩
theorem ackDecode (u : Bytes) : Statement (.ackDecode u) := ⟨_, rfl, rfl⟩
theorem ackVerify (a : AckRec) : Statement (.ackVerify a) := ⟨_, rfl, rfl⟩
theorem btSend (u : Bytes) : Statement (.btSend u) := ⟨_, rfl, rfl⟩
theorem btRxbyte (b : Byte) : Statement (.btRxbyte b) := ⟨_, rfl, rfl⟩
theorem btRecv (input : Bytes) : Statement (.btRecv input) := ⟨_, rfl, rfl⟩
theorem txDeqAck : Statement .txDeqAck := ⟨_, rfl, rfl⟩
theorem txDeqFrame : Statement .txDeqFrame := ⟨_, rfl, rfl⟩
theorem txDeqBcast : Statement .txDeqBcast := ⟨_, rfl, rfl⟩
theorem txBypassAck : Statement .txBypassAck := ⟨_, rfl, rfl⟩
theorem txAckMatch (e : AckRec) : Statement (.txAckMatch e) := ⟨_, rfl, rfl⟩
theorem txAckStale (e : AckRec) : Statement (.txAckStale e) := ⟨_, rfl, rfl⟩
theorem txResend : Statement .txResend := ⟨_, rfl, rfl⟩
theorem txAbandon : Statement .txAbandon := ⟨_, rfl, rfl⟩
theorem rxUnit (u : Bytes) : Statement (.rxUnit u) := ⟨_, rfl, rfl⟩
theorem rxAckAccept (a : AckRec) : Statement (.rxAckAccept a) := ⟨_, rfl, rfl⟩
theorem rxAckDropChk (a : AckRec) : Statement (.rxAckDropChk a) := ⟨_, rfl, rfl⟩
theorem rxAckDropAddr (a : AckRec) : Statement (.rxAckDropAddr a) := ⟨_, rfl, rfl⟩
theorem rxAckDropFull (a : AckRec) : Statement (.rxAckDropFull a) := ⟨_, rfl, rfl⟩
theorem rxFrameDropLen (reason : LenReason) (u : Bytes) : Statement (.rxFrameDropLen reason u) := ⟨_, rfl, rfl⟩
theorem rxFrameDropChk (which : CheckWhich) (f : DataFrame) : Statement (.rxFrameDropChk which f) := ⟨_, rfl, rfl⟩
theorem rxFrameDropAddr (f : DataFrame) : Statement (.rxFrameDropAddr f) := ⟨_, rfl, rfl⟩
theorem rxFrameDup (f : DataFrame) : Statement (.rxFrameDup f) := ⟨_, rfl, rfl⟩
theorem rxFrameNew (f : DataFrame) : Statement (.rxFrameNew f) := ⟨_, rfl, rfl⟩
theorem hostSend (destination : Byte) (payload : Bytes) : Statement (.hostSend destination payload) := ⟨_, rfl, rfl⟩
theorem hostRecv : Statement .hostRecv := ⟨_, rfl, rfl⟩
theorem envTick : Statement .envTick := ⟨_, rfl, rfl⟩
theorem reset (config : Configuration) : Statement (.reset config) := ⟨_, rfl, rfl⟩
theorem wFlag : Statement .wFlag := ⟨_, rfl, rfl⟩
theorem wEsc : Statement .wEsc := ⟨_, rfl, rfl⟩
theorem wLiteral (b : Byte) : Statement (.wLiteral b) := ⟨_, rfl, rfl⟩
theorem wEscaped (b : Byte) : Statement (.wEscaped b) := ⟨_, rfl, rfl⟩
theorem uAck (a : AckRec) : Statement (.uAck a) := ⟨_, rfl, rfl⟩
theorem uData (f : DataFrame) : Statement (.uData f) := ⟨_, rfl, rfl⟩

end Sys2Proof.Laws.EncodeFront
end

