-- ==== Sys2Proof/Tests/Slice0.lean ====
section
/-! SUPPORT. Tests: expected values are the worked vectors of 95_test_vectors.md and the examples of the rules, named at each
test. After them one witness for each statement of Certificates/Slice0/Obligations.lean that has hypotheses. -/

namespace Sys2Proof.Tests

open Sys2Proof Sys2Proof.Machine

/-! ## Small states -/

/-- The state an operation leaves. -/
def after (i : Instr) (s : State) : State :=
  match exec i s with
  | .next t => t
  | .fault _ => s
  | .refused _ => s

/-- Card 1 of 95_test_vectors.md section 2.5: TIMEOUT_TICKS = 100, MAX_RESEND = 2. -/
def card1 : State := State.reset

/-- Card 2 of section 2.6. -/
def card2 : State := State.resetWith { Config.input with deviceId := 2 }

/-- F12: the record of F1. -/
def hi : DataFrame := ⟨1, 2, 0, 2, 0xFFFA, [0x68, 0x69], 0xFF2E⟩

/-- F1's bytes. -/
def hiUnit : Bytes := [0x01, 0x02, 0x00, 0x00, 0x02, 0xFF, 0xFA, 0x68, 0x69, 0xFF, 0x2E]

/-- The Ack of A1, from 2 to 1 with number 0. -/
def ack21 : AckRec := ⟨2, 1, 0, 0xFFFC⟩

/-- The Ack of A8, from 1 to 2 with number 0. -/
def ack12 : AckRec := ⟨1, 2, 0, 0xFFFC⟩

/-- `AwaitingAck(F1, 10, 0)` with `now = 110` (T10). -/
def waiting : State := { card1 with txState := .awaitingAck hi 10 0, now := 110 }

/-- `s` with the bytes `bs` available on `rx_stream`. -/
def offered (bs : Bytes) (s : State) : State := { s with rxStream := bs }

/-- `s` with the unit `u` in `rx_buf` and its `FLAG` next. -/
def ended (u : Bytes) (s : State) : State := { s with rxStream := [0x7E], rxBuf := u }

/-! ## WellFormed refuses ill-formed terms (30_encoding.md R81, R83) -/

theorem test_literal_flag_ill_formed : (Instr.wLiteral 0x7E).wellFormed = false := by decide
theorem test_literal_esc_ill_formed : (Instr.wLiteral 0x7D).wellFormed = false := by decide
theorem test_data_length_ill_formed : (Instr.uData { hi with payloadLength := 3 }).wellFormed = false := by decide

/-! ## Decoding: words written out from the encodings (30_encoding.md R81, R82, R83, R110, R111) -/

theorem test_decode_checksum : decodeTableWord 8 0b00010000 = some .chkInit ∧ decodeTableWord 8 0b00010001 = some (.chkAdd 0) ∧
    decodeTableWord 8 0b00010010 = some .chkFinal ∧ decodeTableWord 8 0b00010011 = some (.chkSum []) := by decide
theorem test_decode_frame_codec : decodeTableWord 8 0b00100000 = some (.frmEncode 0 0 0 []) ∧
    decodeTableWord 8 0b00100001 = some (.frmDecode []) ∧
    decodeTableWord 8 0b00100010 = some (.frmVerifyHdr ⟨0, 0, 0, 0, 0, [], 0⟩) ∧
    decodeTableWord 8 0b00100011 = some (.frmVerifyPay ⟨0, 0, 0, 0, 0, [], 0⟩) := by decide
theorem test_decode_ack_codec : decodeTableWord 8 0b00110000 = some (.ackEncode 0 0 0) ∧
    decodeTableWord 8 0b00110001 = some (.ackDecode []) ∧ decodeTableWord 8 0b00110010 = some (.ackVerify ⟨0, 0, 0, 0⟩) := by
  decide
theorem test_decode_transport : decodeTableWord 8 0b01000000 = some (.btSend []) ∧
    decodeTableWord 8 0b01000001 = some (.btRxbyte 0) ∧ decodeTableWord 8 0b01000010 = some (.btRecv []) := by decide
theorem test_decode_transmitter : decodeTableWord 8 0x50 = some .txDeqAck ∧ decodeTableWord 8 0x51 = some .txDeqFrame ∧
    decodeTableWord 8 0x52 = some .txDeqBcast ∧ decodeTableWord 8 0x53 = some .txBypassAck ∧
    decodeTableWord 8 0x54 = some (.txAckMatch ⟨0, 0, 0, 0⟩) ∧ decodeTableWord 8 0x55 = some (.txAckStale ⟨0, 0, 0, 0⟩) ∧
    decodeTableWord 8 0x56 = some .txResend ∧ decodeTableWord 8 0x57 = some .txAbandon := by decide
theorem test_decode_receiver_acks : decodeTableWord 8 0x60 = some (.rxUnit []) ∧
    decodeTableWord 8 0x61 = some (.rxAckAccept ⟨0, 0, 0, 0⟩) ∧ decodeTableWord 8 0x62 = some (.rxAckDropChk ⟨0, 0, 0, 0⟩) ∧
    decodeTableWord 8 0x63 = some (.rxAckDropAddr ⟨0, 0, 0, 0⟩) ∧
    decodeTableWord 8 0x64 = some (.rxAckDropFull ⟨0, 0, 0, 0⟩) := by decide
theorem test_decode_receiver_frames : decodeTableWord 8 0x65 = some (.rxFrameDropLen .tooShort []) ∧
    decodeTableWord 8 0x66 = some (.rxFrameDropChk .header ⟨0, 0, 0, 0, 0, [], 0⟩) ∧
    decodeTableWord 8 0x67 = some (.rxFrameDropAddr ⟨0, 0, 0, 0, 0, [], 0⟩) ∧
    decodeTableWord 8 0x68 = some (.rxFrameDup ⟨0, 0, 0, 0, 0, [], 0⟩) ∧
    decodeTableWord 8 0x69 = some (.rxFrameNew ⟨0, 0, 0, 0, 0, [], 0⟩) := by decide
theorem test_decode_host : decodeTableWord 8 0b01110000 = some (.hostSend 0 []) ∧ decodeTableWord 8 0b01110001 = some .hostRecv ∧
    decodeTableWord 8 0b01110010 = some .envTick ∧
    decodeTableWord 8 0b01110011 = some (.reset ⟨0, 0, 0, 0, 0, 0, 0, .unbounded, .unbounded⟩) := by decide
theorem test_decode_wire : decodeTableWord 8 0b01111110 = some .wFlag ∧ decodeTableWord 8 0b01111101 = some .wEsc ∧
    decodeWire false 0x41 = .wLiteral 0x41 ∧ decodeWire true 0x41 = .wEscaped 0x41 ∧ decodeWire true 0x7E = .wEscaped 0x7E := by
  decide
/-- R82's layout, byte by byte: source 2, destination 1, number 0, chk_hi FF, chk_lo FC (A1). -/
theorem test_decode_ack_unit : decodeTableWord 40 0xFCFF000102 = some (.uAck ack21) := by decide
/-- R81's layout, byte by byte, with L = 0: F5. -/
theorem test_decode_data_unit : decodeTableWord 72 0xFFFFFCFF0000000201 = some (.uData ⟨1, 2, 0, 0, 0xFFFC, [], 0xFFFF⟩) := by
  decide
theorem test_decode_rejects : decode [] = .error .nothing ∧ decode [0x74] = .error (.unknownIdentifier 0x74) ∧
    decode [0x11, 0x00] = .error (.badOperands 0x11) ∧ decode [0x00, 0x7E] = .error (.badOperands 0x00) := by decide
/-- The first step after reset runs the word placed there. -/
theorem test_fetched_word_runs : (match step (State.reset.withFetchWord 8 0x72) with | .next t => t.now | _ => 0) = 1 := by
  decide

/-! ## Checksum engine (95_test_vectors.md 2.1) -/

theorem test_chkInit : (after .chkInit { card1 with acc := 5 }).acc = 0 := by decide
theorem test_chkAdd_folds : (after (.chkAdd 0x0003) { card1 with acc := 0xFFFE }).acc = 0x0002 := by decide
theorem test_chkAdd_largest : (after (.chkAdd 0xFFFF) { card1 with acc := 0xFFFF }).acc = 0xFFFF := by decide
theorem test_chkFinal : (after .chkFinal { card1 with acc := 0x0005 }).answer = .sum 0xFFFA := by decide
/-- K11. -/
theorem test_chkSum_k11 : (after (.chkSum [0xFFFF, 1, 0xFFFF, 2]) card1).answer = .sum 0xFFFC := by decide
/-- K21: a 16-bit element. -/
theorem test_chkSum_k21 : (after (.chkSum [1, 2, 0, 300]) card1).answer = .sum 0xFED0 := by decide

/-! ## Frame codec (2.2) -/

/-- F7. -/
theorem test_frmEncode : frmEncode 1 2 0 [0x7E, 0x7D, 0x41] =
    [0x01, 0x02, 0x00, 0x00, 0x03, 0xFF, 0xF9, 0x7E, 0x7D, 0x41, 0xFE, 0xC3] := by decide
/-- F1, F12. -/
theorem test_frmEncode_step : (after (.frmEncode 1 2 0 [0x68, 0x69]) card1).answer = .encoded hiUnit hi := by decide
theorem test_frmDecode : (after (.frmDecode hiUnit) card1).answer = .frame hi := by decide
/-- F13. -/
theorem test_frmDecode_mismatch : (after (.frmDecode [0x01, 0x02, 0x00, 0x00, 0x03, 0xFF, 0xF9, 0x68, 0x69, 0xFF, 0x2E]) card1).answer =
    .invalid .lengthMismatch := by decide
/-- F17. -/
theorem test_frmVerifyHdr : (after (.frmVerifyHdr { hi with ackBit := 1 }) card1).answer = .truth false := by decide
theorem test_frmVerifyHdr_true : (after (.frmVerifyHdr hi) card1).answer = .truth true := by decide
/-- F18, F19. -/
theorem test_frmVerifyPay : (after (.frmVerifyPay { hi with payload := [0x68, 0x6A] }) card1).answer = .truth false := by decide
theorem test_frmVerifyPay_transposed : (after (.frmVerifyPay { hi with payload := [0x69, 0x68] }) card1).answer = .truth true := by
  decide

/-! ## Ack codec (2.3) -/

/-- A5, A11. -/
theorem test_ackEncode_largest : (after (.ackEncode 255 255 255) card1).answer = .bytes [0xFF, 0xFF, 0xFF, 0xFD, 0x02] := by
  decide
theorem test_ackEncode : (after (.ackEncode 2 1 7) card1).answer = .bytes [0x02, 0x01, 0x07, 0xFF, 0xF5] := by decide
/-- A6, A9. -/
theorem test_ackDecode : (after (.ackDecode [0x02, 0x01, 0x00, 0xFF, 0xFC]) card1).answer = .ack ack21 := by decide
theorem test_ackDecode_size : (after (.ackDecode [0x02, 0x01, 0x00, 0xFF]) card1).answer = .notAckSize := by decide
/-- A7, A8. -/
theorem test_ackVerify_false : (after (.ackVerify { ack21 with number := 1 }) card1).answer = .truth false := by decide
theorem test_ackVerify_exchanged : (after (.ackVerify ack12) card1).answer = .truth true := by decide

/-! ## Byte transport (2.4) -/

/-- B3. -/
theorem test_btSend : (after (.btSend [0x64, 0x1B, 0x00, 0x00, 0x02, 0xFF, 0x7E, 0x68, 0x69, 0xFF, 0x2E]) card1).answer =
    .bytes [0x64, 0x1B, 0x00, 0x00, 0x02, 0xFF, 0x7D, 0x7E, 0x68, 0x69, 0xFF, 0x2E, 0x7E] := by decide
/-- B11. -/
theorem test_btRecv : (after (.btRecv [0x01, 0x7D, 0x02, 0x00, 0xFF, 0xFC, 0x7E, 0x55]) card1).answer =
    .bytes [0x01, 0x02, 0x00, 0xFF, 0xFC] := by decide
theorem test_btRecv_waits : (after (.btRecv [0x01, 0x7D, 0x7E]) card1).answer = .held := by decide
/-- B8: an escaped terminator, a literal. -/
theorem test_btRxbyte_escaped :
    (after (.btRxbyte 0x7E) (offered [0x7E] { card1 with rxBuf := [0x01], rxEsc := true })).rxBuf = [0x01, 0x7E] := by decide
/-- R175's example: the terminator hands the unit on. -/
theorem test_btRxbyte_terminator :
    (after (.btRxbyte 0x7E) (ended [0x02, 0x01, 0x00, 0xFF, 0xFC] card1)).pendingAcks = [ack21] ∧
    (after (.btRxbyte 0x7E) (ended [0x02, 0x01, 0x00, 0xFF, 0xFC] card1)).rxBuf = [] := by decide
/-- B9. -/
theorem test_wFlag_empty_unit : (after .wFlag (offered [0x7E] card1)).diag = [⟨.unitShort, .length 0⟩] := by decide
theorem test_wFlag_waits : (after .wFlag (offered [0x7E] { card1 with rxEsc := true })).answer = .held := by decide
/-- R174's example. -/
theorem test_wEsc : (after .wEsc (offered [0x7D] { card1 with rxBuf := [0x01] })).rxEsc = true ∧
    (after .wEsc (offered [0x7D] { card1 with rxBuf := [0x01] })).rxBuf = [0x01] := by decide
/-- R176's example; another byte is next; no byte is. -/
theorem test_wLiteral : (after (.wLiteral 0x01) (offered [0x01] card1)).rxBuf = [0x01] := by decide
theorem test_wLiteral_in_order : (after (.wLiteral 0x01) (offered [0x02] card1)).answer = .held ∧
    (after (.wLiteral 0x01) card1).answer = .held := by decide
/-- R173's example. -/
theorem test_wEscaped :
    (after (.wEscaped 0x7E) (offered [0x7E] { card1 with rxBuf := [0x01], rxEsc := true })).rxEsc = false := by decide
theorem test_wEscaped_waits : (after (.wEscaped 0x7E) (offered [0x7E] card1)).answer = .held := by decide
/-- R255: a byte is made available, lost, altered. -/
theorem test_medium : (mediumStep (.supply 0x7E) (offered [1, 2] card1)).rxStream = [1, 2, 0x7E] ∧
    (mediumStep (.remove 0) (offered [1, 2] card1)).rxStream = [2] ∧
    (mediumStep (.alter 1 3) (offered [1, 2] card1)).rxStream = [1, 3] := by decide
theorem test_medium_in_schedule :
    takeMedium (encodeMedium (.alter 200 0x41) ++ [0x72]) = some (.alter 200 0x41, [0x72]) ∧
    takeMedium [0x41, 0x00] = none := by decide
/-- Card 1 with EGRESS_CAP = 1 and `egress` full (95_test_vectors.md H3). -/
def fullEgress : State := { card1 with cfg := { card1.cfg with egressCap := 1 }, egress := [.data ⟨2, [0x68, 0x69]⟩] }
/-- 60_exceptions.md R270 (H3, then a dequeue): held requests pend, and are taken up when there is room. -/
theorem test_sendPort : (after (.hostSend 3 [0x62]) (after (.hostSend 2 [0x61]) fullEgress)).sendPort = [⟨2, [0x61]⟩, ⟨3, [0x62]⟩] ∧
    portStep (.send 1) { fullEgress with sendPort := [⟨2, [0x61]⟩, ⟨3, [0x62]⟩], egress := [] } =
      .next { fullEgress with sendPort := [⟨2, [0x61]⟩], egress := [.data ⟨3, [0x62]⟩], answer := .queued } :=
  ⟨by decide, rfl⟩
/-- 60_exceptions.md R270 (H6, then a delivery). -/
theorem test_recvPort : (after .hostRecv card1).recvPort = 1 ∧
    portStep .recv { card1 with recvPort := 1, ingress := [hi] } = .next { card1 with answer := .frame hi } := ⟨by decide, rfl⟩
theorem test_port_encoding : encodePort (.send 200) = [0x07, 0xC8, 0x01] ∧ takePort [0x07, 0xC8, 0x01, 0x08] = some (.send 200, [0x08]) ∧
    takePort [0x08, 0x72] = some (.recv, [0x72]) ∧ takePort [0x72] = none := by decide

/-! ## Transmitter (2.5) -/

/-- T2. -/
theorem test_txDeqAck : (after .txDeqAck { card1 with egress := [.ackOut 1 2 0] }).txStream =
    [0x01, 0x02, 0x00, 0xFF, 0xFC, 0x7E] := by decide
theorem test_txDeqAck_waits : (after .txDeqAck { waiting with egress := [.ackOut 1 2 0] }).answer = .held := by decide
/-- T1. -/
theorem test_txDeqFrame_stream : (after .txDeqFrame { card1 with egress := [.data ⟨2, [0x68, 0x69]⟩], now := 10 }).txStream =
    hiUnit ++ [0x7E] := by decide
theorem test_txDeqFrame_state : (after .txDeqFrame { card1 with egress := [.data ⟨2, [0x68, 0x69]⟩], now := 10 }).txState =
    .awaitingAck hi 10 0 := by decide
/-- T3. -/
theorem test_txDeqBcast : (after .txDeqBcast { card1 with egress := [.data ⟨0xFF, [0x79, 0x6F]⟩] }).txStream =
    [0x01, 0xFF, 0x00, 0x00, 0x02, 0xFE, 0xFD, 0x79, 0x6F, 0xFF, 0x17, 0x7E] := by decide
theorem test_txDeqBcast_idle : (after .txDeqBcast { card1 with egress := [.data ⟨0xFF, [0x79, 0x6F]⟩] }).txState = .idle ∧
    (after .txDeqBcast { card1 with egress := [.data ⟨0xFF, [0x79, 0x6F]⟩] }).nextAckToSend = 0 := by decide
/-- T4, T5. -/
theorem test_txBypassAck : (after .txBypassAck { waiting with egress := [.ackOut 1 2 1] }).txStream =
    [0x01, 0x02, 0x01, 0xFF, 0xFB, 0x7E] := by decide
theorem test_txBypassAck_behind_data :
    (after .txBypassAck { waiting with egress := [.data ⟨2, [0x6F, 0x6B]⟩, .ackOut 1 2 0] }).answer = .held := by decide
/-- T6, T8. -/
theorem test_txAckMatch : (after (.txAckMatch ack21) { waiting with pendingAcks := [ack21] }).nextAckToSend = 1 ∧
    (after (.txAckMatch ack21) { waiting with pendingAcks := [ack21] }).txState = .idle ∧
    (after (.txAckMatch ack21) { waiting with pendingAcks := [ack21] }).pendingAcks = [] := by decide
theorem test_txAckMatch_other_peer :
    (after (.txAckMatch ⟨3, 1, 0, 0xFFFB⟩) { waiting with pendingAcks := [⟨3, 1, 0, 0xFFFB⟩] }).answer = .held := by decide
/-- T13: number 7. -/
theorem test_txAckStale : (after (.txAckStale ⟨2, 1, 7, 0xFFF5⟩) { waiting with pendingAcks := [⟨2, 1, 7, 0xFFF5⟩] }).diag =
    [⟨.staleAck, .ack ⟨2, 1, 7, 0xFFF5⟩⟩] := by decide
theorem test_txAckStale_keeps_waiting :
    (after (.txAckStale ⟨2, 1, 7, 0xFFF5⟩) { waiting with pendingAcks := [⟨2, 1, 7, 0xFFF5⟩] }).txState = waiting.txState := by
  decide
/-- T10, T9. -/
theorem test_txResend : (after .txResend waiting).txState = .awaitingAck hi 110 1 ∧
    (after .txResend waiting).txStream = hiUnit ++ [0x7E] ∧ (after .txResend waiting).diag = [⟨.resend, .attempts 1⟩] := by
  decide
theorem test_txResend_early : (after .txResend { waiting with now := 109 }).answer = .held := by decide
/-- T11, T12. -/
theorem test_txAbandon : (after .txAbandon { card1 with txState := .awaitingAck hi 210 2, now := 310 }).txState = .idle ∧
    (after .txAbandon { card1 with txState := .awaitingAck hi 210 2, now := 310 }).diag =
      [⟨.abandon, .header ⟨1, 2, 0, 2, 0xFFFA⟩⟩] := by decide
theorem test_txAbandon_ack_first : (after .txAbandon { card1 with
    txState := .awaitingAck hi 210 2, now := 310, pendingAcks := [ack21] }).answer = .held := by decide

/-! ## Receiver (2.6) -/

/-- X13. -/
theorem test_rxUnit_new : (after (.rxUnit hiUnit) (ended hiUnit card2)).ingress = [hi] ∧
    (after (.rxUnit hiUnit) (ended hiUnit card2)).egress = [.ackOut 2 1 0] := by decide
/-- R62 (d): no unit without its `FLAG`. -/
theorem test_rxUnit_waits : (after (.rxUnit hiUnit) { card2 with rxBuf := hiUnit }).answer = .held ∧
    (after (.rxUnit hiUnit) (offered [0x7E] card2)).answer = .held := by decide
/-- X2: a three-byte unit is no Ack. -/
theorem test_rxUnit_three_bytes :
    (after (.rxUnit [0x01, 0x02, 0x00]) (ended [0x01, 0x02, 0x00] card2)).diag = [⟨.unitShort, .length 3⟩] := by decide
/-- X7. -/
theorem test_rxAckAccept : (after (.rxAckAccept ack12) (ended [0x01, 0x02, 0x00, 0xFF, 0xFC] card2)).pendingAcks = [ack12] := by
  decide
/-- X4. -/
theorem test_rxAckDropChk : (after (.rxAckDropChk ⟨1, 2, 1, 0xFFFC⟩) (ended [0x01, 0x02, 0x01, 0xFF, 0xFC] card2)).diag =
    [⟨.ackChk, .sums 0xFFFC 0xFFFB⟩] := by decide
/-- X6: an Ack to the broadcast address. -/
theorem test_rxAckDropAddr : (after (.rxAckDropAddr ⟨1, 0xFF, 0, 0xFEFF⟩) (ended [0x01, 0xFF, 0x00, 0xFE, 0xFF] card2)).diag =
    [⟨.ackMisaddr, .ack ⟨1, 0xFF, 0, 0xFEFF⟩⟩] := by decide
/-- "With `PENDING_CAP = 1` and one entry pending". -/
theorem test_rxAckDropFull :
    (after (.rxAckDropFull ack12) (ended [0x01, 0x02, 0x00, 0xFF, 0xFC]
      { card2 with cfg := { card2.cfg with pendingCap := .bounded 1 }, pendingAcks := [ack12] })).diag =
      [⟨.pendingFull, .ack ack12⟩] := by decide
/-- X8. -/
theorem test_rxFrameDropLen :
    (after (.rxFrameDropLen .lengthMismatch [0x01, 0x02, 0x00, 0x00, 0x03, 0xFF, 0xF9, 0x68, 0x69, 0xFF, 0x2E])
      (ended [0x01, 0x02, 0x00, 0x00, 0x03, 0xFF, 0xF9, 0x68, 0x69, 0xFF, 0x2E] card2)).diag =
      [⟨.lenMismatch, .lengths 3 2⟩] := by decide
/-- X9, X10. -/
theorem test_rxFrameDropChk_header : (after (.rxFrameDropChk .header { hi with ackBit := 1 })
    (ended [0x01, 0x02, 0x01, 0x00, 0x02, 0xFF, 0xFA, 0x68, 0x69, 0xFF, 0x2E] card2)).diag =
      [⟨.hdrChk, .sums 0xFFFA 0xFFF9⟩] := by decide
theorem test_rxFrameDropChk_payload : (after (.rxFrameDropChk .payload { hi with payload := [0x68, 0x6A] })
    (ended [0x01, 0x02, 0x00, 0x00, 0x02, 0xFF, 0xFA, 0x68, 0x6A, 0xFF, 0x2E] card2)).diag =
      [⟨.payChk, .sums 0xFF2E 0xFF2D⟩] := by decide
/-- X12. -/
theorem test_rxFrameDropAddr : (after (.rxFrameDropAddr ⟨1, 3, 0, 2, 0xFFF9, [0x68, 0x69], 0xFF2E⟩)
    (ended [0x01, 0x03, 0x00, 0x00, 0x02, 0xFF, 0xF9, 0x68, 0x69, 0xFF, 0x2E] card2)).diag =
      [⟨.frameMisaddr, .header ⟨1, 3, 0, 2, 0xFFF9⟩⟩] := by decide
/-- X14. -/
theorem test_rxFrameDup :
    (after (.rxFrameDup hi) (ended hiUnit (after (.rxUnit hiUnit) (ended hiUnit card2)))).egress =
      [.ackOut 2 1 0, .ackOut 2 1 0] ∧
    (after (.rxFrameDup hi) (ended hiUnit (after (.rxUnit hiUnit) (ended hiUnit card2)))).ingress = [hi] := by decide
/-- X18: a broadcast is delivered and not acknowledged. -/
theorem test_rxFrameNew_broadcast :
    (after (.rxFrameNew ⟨1, 0xFF, 0, 2, 0xFEFD, [0x79, 0x6F], 0xFF17⟩)
      (ended [0x01, 0xFF, 0x00, 0x00, 0x02, 0xFE, 0xFD, 0x79, 0x6F, 0xFF, 0x17] card2)).egress = [] ∧
    seen (after (.rxFrameNew ⟨1, 0xFF, 0, 2, 0xFEFD, [0x79, 0x6F], 0xFF17⟩)
      (ended [0x01, 0xFF, 0x00, 0x00, 0x02, 0xFE, 0xFD, 0x79, 0x6F, 0xFF, 0x17] card2)) 1 = some 0 := by decide
/-- "With `INGRESS_CAP = 1` and one frame in `ingress`": held, the terminator is not consumed. -/
theorem test_rxFrameNew_held :
    (after (.rxFrameNew hi) (ended hiUnit
      { card2 with cfg := { card2.cfg with ingressCap := .bounded 1 }, ingress := [hi] })).answer = .held ∧
    (after (.rxFrameNew hi) (ended hiUnit
      { card2 with cfg := { card2.cfg with ingressCap := .bounded 1 }, ingress := [hi] })).rxStream = [0x7E] := by decide
theorem test_uAck : (after (.uAck ack12) (ended [0x01, 0x02, 0x00, 0xFF, 0xFC] card2)).pendingAcks = [ack12] := by decide
theorem test_uData : (after (.uData hi) (ended hiUnit card2)).ingress = [hi] := by decide

/-! ## Host and environment (2.7) -/

/-- H1, H2. -/
theorem test_hostSend : (after (.hostSend 2 [0x68, 0x69]) card1).egress = [.data ⟨2, [0x68, 0x69]⟩] := by decide
theorem test_hostSend_refused : (after (.hostSend 2 [0x61, 0x62, 0x63, 0x64, 0x65])
    { card1 with cfg := { card1.cfg with maxPayload := 4 } }).diag = [⟨.sendTooLong, .length 5⟩] := by decide
/-- H5, H6. -/
theorem test_hostRecv : (after .hostRecv { card1 with ingress := [hi] }).answer = .frame hi := by decide
theorem test_hostRecv_held : (after .hostRecv card1).answer = .held := by decide
/-- H7. -/
theorem test_envTick : (after .envTick { card1 with now := 109 }).now = 110 := by decide
/-- H8, H9. -/
theorem test_reset : (after (.reset Config.input) (offered [0x7E] waiting)).txState = .idle ∧
    (after (.reset Config.input) waiting).now = 0 ∧
    (after (.reset Config.input) (offered [0x7E] waiting)).rxStream = [] := by decide
theorem test_reset_refused : (after (.reset { Config.input with deviceId := 0xFF }) waiting).txState = waiting.txState := by decide

/-! ## Witnesses: for each statement with hypotheses, a state and operands that meet them, clause by clause

Where a hypothesis has a bound, the witness stands on it. -/

/-- Card 1 with every capacity at 1, MAX_PAYLOAD = 2 (`hi` just fits). -/
def tight1 : State := State.resetWith { Config.input with
  maxPayload := 2, maxResend := 1, timeoutTicks := 2, egressCap := 1, ingressCap := .bounded 1, pendingCap := .bounded 1 }

/-- Card 2, as tight. -/
def tight2 : State := State.resetWith { tight1.cfg with deviceId := 2 }

/-- `tight1` awaiting `hi` since tick 3, attempt 1 of 1, the timeout just reached. -/
def last1 : State := { tight1 with txState := .awaitingAck hi 3 1, now := 5 }

/-- `tight1` awaiting `hi` since tick 3, no attempt used, the timeout just reached. -/
def first1 : State := { tight1 with txState := .awaitingAck hi 3 0, now := 5 }

/-- A11: from 2 to 1 with number 7. -/
def stale21 : AckRec := ⟨2, 1, 7, 0xFFF5⟩

/-- A broadcast frame from 1 with payload 79 6F (T3, X18). -/
def bcast : DataFrame := ⟨1, 0xFF, 0, 2, 0xFEFD, [0x79, 0x6F], 0xFF17⟩

/-- In the invariant, with something in every queue and a frame in flight. -/
def busy : State := { last1 with
  egress := [.ackOut 1 2 0], ingress := [⟨2, 1, 0, 2, 0xFFFA, [0x68, 0x69], 0xFF2E⟩], pendingAcks := [stale21] }

theorem busy_inv : Inv busy where
  config := by decide
  bit := by decide
  queuedData := by intro r h; simp [busy] at h
  pending := by decide
  delivered := by decide
  inFlight := by intro f t a h; cases h; decide
  room := by decide
  accumulator := by decide
  requests := by decide

/-- In the invariant, `Idle`, a unicast frame queued. -/
def ready : State := { tight1 with egress := [.data ⟨2, [0x68, 0x69]⟩] }

theorem ready_inv : Inv ready where
  config := by decide
  bit := by decide
  queuedData := by intro r h; simp [ready] at h; subst h; decide
  pending := by decide
  delivered := by decide
  inFlight := by intro f t a h; cases h
  room := by decide
  accumulator := by decide
  requests := by decide

/-! Encodings and the step -/

theorem witness_DecodeOfEncodeIsTheOperation : (Instr.wLiteral 0x7F).wellFormed = true ∧ (Instr.uData hi).wellFormed = true := by
  decide
theorem witness_DecodedBytesAreTheEncoding : decode [0x41, 0x7E, 0x10] = .ok (.btRxbyte 0x7E, [0x10]) := by decide
theorem witness_UnitFormatsReadBack : hi.payloadLength.toNat = hi.payload.length ∧
    decodeUnit [0x02, 0x01, 0x00, 0xFF, 0xFC] = some (.uAck ack21) ∧ decodeUnit hiUnit = some (.uData hi) := by decide
theorem witness_StepTakesTheScheduledOperation :
    decode { card1 with schedule := [0x72, 0x71] }.schedule = .ok (.envTick, [0x71]) ∧
    decode { card1 with schedule := [0x74] }.schedule = .error (.unknownIdentifier 0x74) ∧
    takeMedium { card1 with schedule := [0x74] }.schedule = none ∧ takePort { card1 with schedule := [0x74] }.schedule = none ∧
    { card1 with schedule := [0x07, 0x00] }.schedule = encodePort (.send 0) ++ [] ∧ card1.schedule = [] ∧
    { card1 with schedule := [0x04, 0x7E] }.schedule = encodeMedium (.supply 0x7E) ++ [] ∧
    (offered [0x7E] { card1 with schedule := [0x05, 0x00] }).rxStream = [] ++ 0x7E :: [] ∧
    (offered [0x7E] { card1 with schedule := [0x05, 0x00] }).schedule = encodeMedium (.remove ([] : Bytes).length) ++ [] ∧
    (offered [1, 0x7E] { card1 with schedule := [0x06, 0x01, 0x41] }).rxStream = [1] ++ 0x7E :: [] ∧
    (offered [1, 0x7E] { card1 with schedule := [0x06, 0x01, 0x41] }).schedule =
      encodeMedium (.alter ([1] : Bytes).length 0x41) ++ [] := by decide

/-! Checksum engine and codecs -/

theorem witness_ChkAddFoldsTheCarryBack : { card1 with acc := 0xFFFF }.acc.toNat ≤ 0xFFFF := by decide
theorem witness_OneFoldPerElementIsEnough : 0xFFFF ≤ 0xFFFF ∧ (0xFFFF + 0xFFFF) >>> 16 = 1 ∧ (0 + 0) >>> 16 = 0 := by decide
theorem witness_ChkFinalComplementsTheAccumulator : (0xFFFF : Acc).toNat ≤ 0xFFFF := by decide
theorem witness_ChecksumHasItsClosedForm : (([0xFFFF, 0] : List Half).map BitVec.toNat).sum ≤ 0xFFFF := by decide
theorem witness_ChecksumIgnoresOrderAndGrouping : [(1 : Half), 2].Perm [2, 1] ∧
    foldWhile 1 (([0xFFFF, 0xFFFF] : List Half).map BitVec.toNat).sum ≤ 0xFFFF := by
  exact ⟨List.Perm.swap 2 1 [], by decide⟩
theorem witness_TheTwoZerosStayApart_stored_zero :
    { hi with payload := [], payloadChecksum := 0 }.payloadChecksum = 0 ∧ payloadSum [] = 0xFFFF := by decide
/-- 257 bytes of 0xFF sum to 65535. -/
theorem witness_TheTwoZerosStayApart_stored_ones :
    { hi with payload := List.replicate 257 0xFF, payloadChecksum := 0xFFFF }.payloadChecksum = 0xFFFF ∧
    payloadSum (List.replicate 257 0xFF) = 0 := by
  refine ⟨rfl, BitVec.eq_of_toNat_eq ?_⟩
  have ht : Laws.total ((List.replicate 257 (0xFF : Byte)).map element) = 65535 := by
    simp only [Laws.total, List.map_replicate, List.sum_replicate]; decide
  rw [payloadSum, Laws.chkSum_toNat, ht]; decide
theorem witness_FrmEncodeLaysOutTheFrame : hi.payload.length ≤ tight1.cfg.maxPayload ∧ tight1.cfg.maxPayload ≤ 65535 ∧
    (2 : Half).toNat = hi.payload.length ∧
    (0xFFFA : Half) = chkSum [(1 : Byte).setWidth 16, (2 : Byte).setWidth 16, (0 : Byte).setWidth 16, 2] ∧
    (0xFF2E : Half) = chkSum (hi.payload.map fun b => b.setWidth 16) := by decide
theorem witness_FrmEncodeOverLongIsFree : tight1.cfg.maxPayload < [(1 : Byte), 2, 3].length := by decide
theorem witness_FrmDecodeHasOneOutcomePerUnit : (hiUnit.take 8).length < 9 ∧ 9 ≤ (hiUnit.take 9).length := by decide
theorem witness_FrameRoundTrip : hi.payload.length ≤ tight1.cfg.maxPayload ∧ tight1.cfg.maxPayload ≤ 65535 ∧
    frmDecode tight1.cfg hiUnit = .ok hi ∧ frmVerifyHdr hi = true ∧ frmVerifyPay hi = true := by
  exact ⟨by decide, by decide, rfl, by decide, by decide⟩
theorem witness_AckCodecLaysOutTheAck :
    (0xFFFC : Half) = chkSum [(2 : Byte).setWidth 16, (1 : Byte).setWidth 16, (0 : Byte).setWidth 16] ∧
    (hiUnit.take 4).length ≠ 5 ∧ (hiUnit.take 6).length ≠ 5 := by decide
theorem witness_AckRoundTripAndSingleBitErrors :
    39 < 40 ∧ (ackDecode (flipBit (ackEncode 2 1 0) 39)).map ackVerify = some false := by decide
theorem witness_SingleBitErrorsAreDetected : hi.payload.length ≤ tight1.cfg.maxPayload ∧ tight1.cfg.maxPayload ≤ 65535 ∧
    87 < 8 * (frmEncode 1 2 0 hi.payload).length := by decide

/-! Byte transport -/

/-- R95: `7D 7E` ends no unit. B11: an escape before an ordinary byte. -/
theorem witness_BtRecvUndoesBtSend : btRecvFrom [] false [0x01, 0x7D, 0x7E] = none ∧
    btRecvFrom [] false ([0x01, 0x7D, 0x02, 0x00, 0xFF, 0xFC, 0x7E] ++ [0x55]) =
      some ([0x01, 0x02, 0x00, 0xFF, 0xFC], [0x55]) ∧
    (offered ([0x01, 0x7D, 0x02, 0x00, 0xFF, 0xFC, 0x7E] ++ [0x55]) card1).rxStream =
      [0x01, 0x7D, 0x02, 0x00, 0xFF, 0xFC, 0x7E] ++ [0x55] ∧ card1.rxBuf = [] ∧ card1.rxEsc = false ∧
    (0x7F : Byte) ≠ 0x7E ∧ (0x7F : Byte) ≠ 0x7D := by decide

theorem witness_LiteralsAndEscapesAreUnstuffed :
    { card1 with rxStream := [0x7E, 0x01], rxEsc := true }.rxStream = 0x7E :: [0x01] ∧
    { card1 with rxStream := [0x7D, 0x01] }.rxStream = 0x7D :: [0x01] ∧ card1.rxEsc = false ∧
    { card1 with rxStream := [0x7F, 0x01] }.rxStream = 0x7F :: [0x01] ∧ (0x7F : Byte) ≠ 0x7E ∧ (0x7F : Byte) ≠ 0x7D := by
  decide
/-- A unit that is handled, and a new frame that is held because `ingress` is full. -/
theorem witness_TerminatorHandlesTheUnit :
    { tight2 with rxStream := [0x7E, 1], rxBuf := hiUnit }.rxStream = 0x7E :: [1] ∧ tight2.rxEsc = false ∧
    verdictHeld tight2 (classify tight2 hiUnit) = false ∧
    verdictHeld { tight2 with ingress := [hi] } (classify { tight2 with ingress := [hi] } hiUnit) = true := by decide
theorem witness_RxByteIsOneOfFourCases : (0x7C : Byte) ≠ 0x7E ∧ (0x7C : Byte) ≠ 0x7D ∧ { card1 with rxEsc := true }.rxEsc = true ∧
    card1.rxEsc = false ∧ (∀ rest, (offered [2] card1).rxStream ≠ 1 :: rest) ∧ (∀ rest, card1.rxStream ≠ 1 :: rest) := by
  refine ⟨by decide, by decide, by decide, by decide, ?_, ?_⟩ <;> (intro rest h; cases h)
theorem witness_FramingDeliversTheUnit :
    (offered [0x01, 0x02, 0x00, 0x00, 0x02, 0xFF, 0xFA, 0x68, 0x69, 0xFF, 0x2E, 0x7E, 0x55] tight2).rxStream =
      btSend hiUnit ++ [0x55] ∧ tight2.rxBuf = [] ∧ tight2.rxEsc = false ∧
    verdictHeld tight2 (classify tight2 hiUnit) = false ∧
    verdictHeld { tight2 with ingress := [hi] } (classify { tight2 with ingress := [hi] } hiUnit) = true := by decide

/-! Transmitter -/

theorem witness_OutboundAcksAreTransmitted : tight1.txState = .idle ∧
    { tight1 with egress := [.ackOut 1 2 0] }.egress = .ackOut 1 2 0 :: [] ∧ busy.txState = .awaitingAck hi 3 1 ∧
    busy.egress = .ackOut 1 2 0 :: [] ∧ ready.egress = .data ⟨2, [0x68, 0x69]⟩ :: [] := by decide
theorem witness_UnicastFrameIsSentAndAwaited : ready.txState = .idle ∧ ready.egress = .data ⟨2, [0x68, 0x69]⟩ :: [] ∧
    (2 : Byte) ≠ ready.cfg.broadcastAddr := by decide
theorem witness_BroadcastIsSentWithoutWaiting : tight1.txState = .idle ∧
    { tight1 with egress := [.data ⟨0xFF, [0x79]⟩] }.egress = .data ⟨0xFF, [0x79]⟩ :: [] ∧
    (0xFF : Byte) = tight1.cfg.broadcastAddr := by decide
/-- The Ack is taken on an expired wait too, and the bit changes. -/
theorem witness_GenuineAckEndsTheWait : last1.txState = .awaitingAck hi 3 1 ∧
    ack21 ∈ { last1 with pendingAcks := [stale21, ack21] }.pendingAcks ∧ ack21.destination = last1.cfg.deviceId ∧
    ack21.source = hi.destination ∧ ack21.number = last1.nextAckToSend ∧
    exec (.txAckMatch ack21) { last1 with pendingAcks := [ack21] } =
      .next (after (.txAckMatch ack21) { last1 with pendingAcks := [ack21] }) ∧
    (after (.txAckMatch ack21) { last1 with pendingAcks := [ack21] }).nextAckToSend ≠ last1.nextAckToSend := by
  exact ⟨rfl, by decide, by decide, by decide, by decide, rfl, by decide⟩
theorem witness_StaleAckIsDiscarded : busy.txState = .awaitingAck hi 3 1 ∧ stale21 ∈ busy.pendingAcks ∧
    stale21.destination = busy.cfg.deviceId ∧ stale21.source = hi.destination ∧ stale21.number ≠ busy.nextAckToSend := by decide
theorem witness_TimeoutRetransmitsTheIdenticalFrame : first1.txState = .awaitingAck hi 3 0 ∧
    first1.now - 3 ≥ first1.cfg.timeoutTicks ∧ 0 < first1.cfg.maxResend ∧
    (∀ e ∈ first1.pendingAcks,
      ¬(e.destination = first1.cfg.deviceId ∧ e.source = hi.destination ∧ e.number = first1.nextAckToSend)) ∧
    hi = makeFrame hi.source hi.destination hi.ackBit hi.payload ∧
    last1.txState = .awaitingAck hi 3 1 ∧ last1.cfg.maxResend ≤ 1 := by decide
theorem witness_ExhaustedFrameIsAbandoned : busy.txState = .awaitingAck hi 3 1 ∧ busy.now - 3 ≥ busy.cfg.timeoutTicks ∧
    1 = busy.cfg.maxResend ∧
    ∀ e ∈ busy.pendingAcks, ¬(e.destination = busy.cfg.deviceId ∧ e.source = hi.destination ∧ e.number = busy.nextAckToSend) := by
  decide
/-- In turn: awaiting; awaiting; awaiting; `Idle`; nothing pending; a genuine entry; a tick too early; attempts left. -/
theorem witness_TransmitterWaitsOutsideItsGuards :
    (¬∃ source destination number rest, busy.txState = .idle ∧ busy.egress = .ackOut source destination number :: rest) ∧
    (¬∃ r rest, last1.txState = .idle ∧ last1.egress = .data r :: rest ∧ r.destination ≠ last1.cfg.broadcastAddr) ∧
    (¬∃ r rest, ready.txState = .idle ∧ ready.egress = .data r :: rest ∧ r.destination = ready.cfg.broadcastAddr) ∧
    (¬∃ f t a source destination number rest,
      ready.txState = .awaitingAck f t a ∧ ready.egress = .ackOut source destination number :: rest) ∧
    (¬∃ f t a, busy.txState = .awaitingAck f t a ∧ ack21 ∈ busy.pendingAcks ∧ ack21.destination = busy.cfg.deviceId ∧
      ack21.source = f.destination ∧ ack21.number = busy.nextAckToSend) ∧
    (¬∃ f t a, first1.txState = .awaitingAck f t a ∧ ack21 ∈ first1.pendingAcks ∧ ack21.destination = first1.cfg.deviceId ∧
      ack21.source = f.destination ∧ ack21.number ≠ first1.nextAckToSend) ∧
    (¬∃ f t a, { first1 with now := 4 }.txState = .awaitingAck f t a ∧
      { first1 with now := 4 }.now - t ≥ first1.cfg.timeoutTicks ∧ a < first1.cfg.maxResend ∧
      ∀ e ∈ first1.pendingAcks,
        ¬(e.destination = first1.cfg.deviceId ∧ e.source = f.destination ∧ e.number = first1.nextAckToSend)) ∧
    (¬∃ f t a, first1.txState = .awaitingAck f t a ∧ first1.now - t ≥ first1.cfg.timeoutTicks ∧
      a = first1.cfg.maxResend ∧ ∀ e ∈ first1.pendingAcks,
        ¬(e.destination = first1.cfg.deviceId ∧ e.source = f.destination ∧ e.number = first1.nextAckToSend)) := by
  refine ⟨?_, ?_, ?_, ?_, ?_, ?_, ?_, ?_⟩
  · rintro ⟨_, _, _, _, h, _⟩; cases h
  · rintro ⟨_, _, h, _⟩; cases h
  · rintro ⟨_, _, _, h, hd⟩; cases h; exact absurd hd (by decide)
  · rintro ⟨_, _, _, _, _, _, _, h, _⟩; cases h
  · rintro ⟨_, _, _, _, h, _⟩; exact absurd h (by decide)
  · rintro ⟨_, _, _, _, h, _⟩; exact absurd h (by decide)
  · rintro ⟨_, _, _, h, ht, _⟩; cases h; exact absurd ht (by decide)
  · rintro ⟨_, _, _, h, _, ha, _⟩; cases h; exact absurd ha (by decide)
theorem witness_TransmitterTransitionsAreTheTable : exec .txDeqFrame ready = .next (after .txDeqFrame ready) ∧
    (after .txDeqFrame ready).txState ≠ ready.txState ∧ (after .txDeqFrame ready).answer = .void ∧ agentOf .txResend = some .tx ∧ tight1.txState = .idle ∧
    tight1.egress = [] := by
  exact ⟨rfl, by decide, by decide, by decide, by decide, by decide⟩
/-- Peer 3's Ack is pending while peer 2's is taken. -/
theorem witness_AcksOfOtherPeersAreNotTouched :
    exec (.txAckMatch ack21) { last1 with pendingAcks := [⟨3, 1, 0, 0xFFFB⟩, ack21] } =
      .next (after (.txAckMatch ack21) { last1 with pendingAcks := [⟨3, 1, 0, 0xFFFB⟩, ack21] }) ∧
    (∀ c, Instr.txAckMatch ack21 ≠ .reset c) ∧
    (⟨3, 1, 0, 0xFFFB⟩ : AckRec) ∈ { last1 with pendingAcks := [⟨3, 1, 0, 0xFFFB⟩, ack21] }.pendingAcks ∧
    (∀ f t₀ a, last1.txState = .awaitingAck f t₀ a → (3 : Byte) ≠ f.destination) := by
  refine ⟨rfl, nofun, by decide, ?_⟩
  intro f t₀ a h; cases h; decide
theorem witness_RetriesAreBoundedThenAbandoned : first1.txState = .awaitingAck hi 3 0 ∧ 3 ≤ first1.now ∧
    genuinePending first1 hi = false ∧ [2].length = first1.cfg.maxResend ∧ (∀ w ∈ [2], first1.cfg.timeoutTicks ≤ w) ∧
    first1.cfg.timeoutTicks ≤ 2 := by decide
theorem witness_TransmitterNeverStops : Inv busy ∧ pollStep busy = some (.txAckStale stale21) ∧
    busy.txState = .awaitingAck hi 3 1 ∧ Inv ready ∧ pollStep ready = some .txDeqFrame := by
  exact ⟨busy_inv, by decide, by decide, ready_inv, by decide⟩
theorem witness_TransmitterNeverStops_genuine :
    pollStep { last1 with pendingAcks := [ack21] } = some (.txAckMatch ack21) ∧
    genuinePending { last1 with pendingAcks := [ack21] } hi = true := by decide

/-! Receiver -/

theorem witness_AckUnitsHaveTheirOutcomes :
    Completes (ended (ackUnit ack12) tight2) (ackUnit ack12) [] ∧
    (⟨1, 2, 1, 0xFFFC⟩ : AckRec).checksum ≠ ackSum 1 2 1 ∧
    ack21.checksum = ackSum ack21.source ack21.destination ack21.number ∧ ack21.destination ≠ tight2.cfg.deviceId ∧
    ack12.checksum = ackSum ack12.source ack12.destination ack12.number ∧ ack12.destination = tight2.cfg.deviceId ∧
    tight2.cfg.pendingCap = .bounded { tight2 with pendingAcks := [ack12] }.pendingAcks.length ∧
    tight2.cfg.pendingCap ≠ .bounded tight2.pendingAcks.length := by decide
theorem witness_UndecodableUnitsAreDropped :
    Completes (ended (hiUnit.take 8) tight2) (hiUnit.take 8) [] ∧ (hiUnit.take 8).length < 9 ∧ (hiUnit.take 8).length ≠ 5 ∧
    (hiUnit ++ [0]).length > tight2.cfg.maxPayload + 9 ∧ (hiUnit ++ [0]).length ≠ 5 ∧
    [(0x68 : Byte), 0x69].length ≤ tight2.cfg.maxPayload ∧
    (0 : Byte).toNat * 256 + (3 : Byte).toNat ≠ [(0x68 : Byte), 0x69].length := by decide
theorem witness_CorruptedAndMisaddressedFramesAreDropped : Completes (ended (frameUnit hi) tight2) (frameUnit hi) [] ∧
    hi.payloadLength.toNat = hi.payload.length ∧ hi.payload.length ≤ tight2.cfg.maxPayload ∧
    { hi with ackBit := 1 }.headerChecksum ≠ headerSum hi.source hi.destination 1 hi.payloadLength ∧
    hi.headerChecksum = headerSum hi.source hi.destination hi.ackBit hi.payloadLength ∧
    hi.payloadChecksum ≠ payloadSum [0x68, 0x6A] ∧ hi.payloadChecksum = payloadSum hi.payload ∧
    hi.destination ≠ tight1.cfg.deviceId ∧ hi.destination ≠ tight1.cfg.broadcastAddr := by decide
/-- The unicast duplicate, and the broadcast one where `egress` is full. -/
theorem witness_DuplicateFramesAreAcknowledgedOnly : Completes (ended (frameUnit hi) tight2) (frameUnit hi) [] ∧
    soundFrame tight2.cfg hi = true ∧ hi.destination = tight2.cfg.deviceId ∧
    seen (tight2.recordSeen 1 0) hi.source = some hi.ackBit ∧ tight2.egress.length ≠ tight2.cfg.egressCap ∧
    soundFrame tight2.cfg bcast = true ∧ bcast.destination = tight2.cfg.broadcastAddr ∧
    seen (tight2.recordSeen 1 0) bcast.source = some bcast.ackBit := by decide
/-- The sender's other bit was seen last. -/
theorem witness_NewFramesAreDelivered : Completes (ended (frameUnit hi) tight2) (frameUnit hi) [] ∧
    soundFrame tight2.cfg hi = true ∧ hi.destination = tight2.cfg.deviceId ∧
    seen (tight2.recordSeen 1 1) hi.source ≠ some hi.ackBit ∧ tight2.cfg.ingressCap ≠ .bounded tight2.ingress.length ∧
    tight2.egress.length ≠ tight2.cfg.egressCap ∧ soundFrame tight2.cfg bcast = true ∧
    bcast.destination = tight2.cfg.broadcastAddr ∧ seen tight2 bcast.source ≠ some bcast.ackBit := by decide
/-- A sound new frame has none of the other outcomes, and a sound Ack none but acceptance. -/
theorem witness_UnitHandlingIsItsOutcome :
    Completes (ended (ackUnit ack12) tight2) (ackUnit ack12) [] ∧ Completes (ended (frameUnit hi) tight2) (frameUnit hi) [] ∧
    classify tight2 (ackUnit ack12) ≠ .ackDropChk ack12 ∧ classify tight2 (ackUnit ack12) ≠ .ackDropAddr ack12 ∧
    classify tight2 (ackUnit ack12) ≠ .ackDropFull ack12 ∧ classify tight2 (ackUnit ack21) ≠ .ackAccept ack21 ∧
    classify tight2 hiUnit ≠ .frameDropLen .tooShort ∧ classify tight2 (frameUnit hi) ≠ .frameDropChk .payload hi ∧
    classify tight2 (frameUnit hi) ≠ .frameDropAddr hi ∧ classify tight2 (frameUnit hi) ≠ .frameDup hi ∧
    classify (tight2.recordSeen 1 0) (frameUnit hi) ≠ .frameNew hi ∧
    verdictHeld tight2 (classify tight2 (frameUnit hi)) = false := by decide
/-- No byte is next. -/
theorem witness_UnitHandlingIsItsOutcome_waits : ∀ rest, ¬Completes { tight2 with rxBuf := hiUnit } hiUnit rest := by
  intro rest h; cases h.1
/-- Held for want of `ingress`. -/
theorem witness_OnlyDeliveryAndAcksAreHeld : Completes (ended hiUnit { tight2 with ingress := [hi] }) hiUnit [] ∧
    exec (.rxUnit hiUnit) (ended hiUnit { tight2 with ingress := [hi] }) =
      .next (after (.rxUnit hiUnit) (ended hiUnit { tight2 with ingress := [hi] })) ∧
    (after (.rxUnit hiUnit) (ended hiUnit { tight2 with ingress := [hi] })).answer = .held := by
  exact ⟨by decide, rfl, by decide⟩
theorem witness_AcksAreGeneratedExactly : tight2.cfg.deviceId ≠ tight2.cfg.broadcastAddr ∧
    Completes (ended hiUnit tight2) hiUnit [] ∧
    exec (.rxUnit hiUnit) (ended hiUnit tight2) = .next (after (.rxUnit hiUnit) (ended hiUnit tight2)) ∧
    (after (.rxUnit hiUnit) (ended hiUnit tight2)).answer = .void ∧
    Completes (ended (hiUnit.take 8) tight2) (hiUnit.take 8) [] ∧
    exec (.rxUnit (hiUnit.take 8)) (ended (hiUnit.take 8) tight2) =
      .next (after (.rxUnit (hiUnit.take 8)) (ended (hiUnit.take 8) tight2)) ∧
    (after (.rxUnit (hiUnit.take 8)) (ended (hiUnit.take 8) tight2)).answer = .void := by
  exact ⟨by decide, by decide, rfl, by decide, by decide, rfl, by decide⟩
theorem witness_TwiceReceivedIsOnceDelivered :
    (offered (hiUnit ++ 0x7E :: (hiUnit ++ [0x7E, 0x55])) card2).rxStream =
      btSend (frameUnit hi) ++ btSend (frameUnit hi) ++ [0x55] ∧ card2.rxBuf = [] ∧ card2.rxEsc = false ∧
    soundFrame card2.cfg hi = true ∧ hi.destination = card2.cfg.deviceId ∧ card2.cfg.deviceId ≠ card2.cfg.broadcastAddr ∧
    seen card2 hi.source ≠ some hi.ackBit ∧ card2.cfg.ingressCap ≠ .bounded card2.ingress.length ∧
    { card2 with egress := List.replicate 14 (.ackOut 2 1 0) }.egress.length + 2 ≤ card2.cfg.egressCap := by decide

/-! Host ports, reset, whole-machine rules -/

theorem witness_HostSendQueuesRefusesOrWaits : [(1 : Byte), 2, 3].length > tight1.cfg.maxPayload ∧
    [(1 : Byte), 2].length ≤ tight1.cfg.maxPayload ∧ tight1.egress.length ≠ tight1.cfg.egressCap ∧
    ready.egress.length = ready.cfg.egressCap ∧
    { ready with sendPort := [⟨2, []⟩] }.sendPort = [] ++ ⟨2, []⟩ :: [] ∧ ([] : Bytes).length ≤ ready.cfg.maxPayload ∧
    { tight1 with sendPort := [⟨2, [1, 2, 3]⟩, ⟨2, [1, 2]⟩] }.sendPort = [⟨2, [1, 2, 3]⟩] ++ ⟨2, [1, 2]⟩ :: [] ∧
    card1.sendPort.length ≤ 0 := by decide
theorem witness_HostRecvAndTick : { card1 with ingress := [hi], recvPort := 1 }.ingress = hi :: [] ∧ card1.ingress = [] ∧
    { card1 with ingress := [hi], recvPort := 1 }.recvPort = 0 + 1 ∧ card1.recvPort = 0 := by decide
/-- The largest MAX_PAYLOAD, the smallest capacities, POLL_TICKS = TIMEOUT_TICKS. -/
theorem witness_ResetGivesTheResetValues :
    (⟨0, 0xFF, 65535, 0, 1, 1, 1, .bounded 1, .bounded 1⟩ : Configuration).legal = true := by decide
theorem witness_ResetRefusesIllegalConfigurations :
    { Config.input with deviceId := 0xFF }.deviceId = { Config.input with deviceId := 0xFF }.broadcastAddr ∧
    { Config.input with maxPayload := 65536 }.maxPayload > 65535 ∧ { Config.input with timeoutTicks := 0 }.timeoutTicks = 0 ∧
    { Config.input with pollTicks := 0 }.pollTicks = 0 ∧
    { Config.input with pollTicks := 101 }.pollTicks > Config.input.timeoutTicks ∧
    { Config.input with egressCap := 0 }.egressCap = 0 ∧
    { Config.input with ingressCap := .bounded 0 }.ingressCap = .bounded 0 ∧
    { Config.input with pendingCap := .bounded 0 }.pendingCap = .bounded 0 ∧
    Config.input.legal = true ∧ exec (.reset Config.input) busy = .next (after (.reset Config.input) busy) := by
  exact ⟨by decide, by decide, by decide, by decide, by decide, by decide, by decide, by decide, by decide, rfl⟩
theorem witness_StepKeepsTheInvariant : Inv { busy with schedule := [0x53] } ∧
    step { busy with schedule := [0x53] } = .next (after .txBypassAck { busy with schedule := [] }) := by
  refine ⟨⟨busy_inv.config, busy_inv.bit, busy_inv.queuedData, busy_inv.pending, busy_inv.delivered, busy_inv.inFlight,
    busy_inv.room, busy_inv.accumulator, busy_inv.requests⟩, rfl⟩
theorem witness_ResetMeetsTheInvariant :
    (⟨0, 0xFF, 65535, 0, 1, 1, 1, .bounded 1, .bounded 1⟩ : Configuration).legal = true := by decide
theorem witness_AgentsWriteOnlyTheirState :
    exec (.chkAdd 1) busy = .next (after (.chkAdd 1) busy) ∧ agentOf (.chkAdd 1) = none ∧
    exec .hostRecv busy = .next (after .hostRecv busy) ∧ agentOf .hostRecv = some .host ∧
    portStep .recv { busy with recvPort := 1 } = .next { after .hostRecv busy with recvPort := 0 } ∧
    exec .txAbandon busy = .next (after .txAbandon busy) ∧ agentOf .txAbandon = some .tx ∧
    exec (.rxUnit hiUnit) (ended hiUnit tight2) = .next (after (.rxUnit hiUnit) (ended hiUnit tight2)) ∧
    agentOf (.rxUnit hiUnit) = some .rx ∧
    exec .envTick busy = .next (after .envTick busy) ∧ agentOf .envTick = some .env ∧ ∀ c, Instr.envTick ≠ .reset c := by
  exact ⟨rfl, rfl, rfl, rfl, rfl, rfl, rfl, rfl, rfl, rfl, rfl, nofun⟩
theorem witness_TracesGrowAndConfigurationStays : exec .txAbandon busy = .next (after .txAbandon busy) ∧
    ∀ c, Instr.txAbandon ≠ .reset c := by
  exact ⟨rfl, nofun⟩
/-- An Ack and a frame. -/
theorem witness_EmittedUnitsAreWellFormed : Inv busy ∧ exec .txBypassAck busy = .next (after .txBypassAck busy) ∧
    (after .txBypassAck busy).txStream ≠ busy.txStream ∧ Inv ready ∧
    exec .txDeqFrame ready = .next (after .txDeqFrame ready) ∧ (after .txDeqFrame ready).txStream ≠ ready.txStream ∧
    ∀ c, Instr.txDeqFrame ≠ .reset c := by
  exact ⟨busy_inv, rfl, by decide, ready_inv, rfl, by decide, nofun⟩
theorem witness_OneFrameConvergesOverReliableMedium :
    ready.txState = .idle ∧ ready.egress = .data ⟨2, [0x68, 0x69]⟩ :: [] ∧ (2 : Byte) ≠ ready.cfg.broadcastAddr ∧
    ready.pendingAcks = [] ∧ ready.cfg.pendingCap.legal = true ∧ ready.rxBuf = [] ∧ ready.rxEsc = false ∧
    ready.rxStream = [] ∧ tight2.cfg.deviceId = 2 ∧ tight2.cfg.broadcastAddr = ready.cfg.broadcastAddr ∧
    [(0x68 : Byte), 0x69].length ≤ tight2.cfg.maxPayload ∧ tight2.cfg.maxPayload ≤ 65535 ∧ tight2.txState = .idle ∧
    tight2.egress = [] ∧ 1 ≤ tight2.cfg.egressCap ∧ tight2.cfg.ingressCap ≠ .bounded tight2.ingress.length ∧
    tight2.rxBuf = [] ∧ tight2.rxEsc = false ∧ tight2.rxStream = [] ∧
    seen tight2 ready.cfg.deviceId ≠ some ready.nextAckToSend := by decide

end Sys2Proof.Tests
end

/-! SUPPORT. What one step can be, what the invariant keeps under each named operation on state, and what each agent's step
keeps (10_state.md R38). -/

namespace Sys2Proof.Proofs

open Sys2Proof Sys2Proof.Machine Sys2Proof.Laws

/-! ## One step -/

/-- Everything `step` can do where it answers a next state: nothing is scheduled and nothing changes, or the front of
`schedule` is consumed and an operation, an event of the medium or the step of a pending request is taken. -/
theorem step_cases {s t : State} (h : step s = .next t) :
    (s.schedule = [] ∧ t = s) ∨
    (∃ i left, decode s.schedule = .ok (i, left) ∧ exec i { s with schedule := left } = .next t) ∨
    (∃ e left, takeMedium s.schedule = some (e, left) ∧ t = mediumStep e { s with schedule := left }) ∨
    (∃ p left, takePort s.schedule = some (p, left) ∧ portStep p { s with schedule := left } = .next t) := by
  cases hs : s.schedule with
  | nil => simp only [step, hs] at h; cases h; exact .inl ⟨rfl, rfl⟩
  | cons op rest =>
    simp only [step, hs] at h
    split at h
    · exact .inr (.inl ⟨_, _, ‹_›, h⟩)
    · split at h
      · cases h; exact .inr (.inr (.inl ⟨_, _, ‹_›, rfl⟩))
      · split at h
        · exact .inr (.inr (.inr ⟨_, _, ‹_›, h⟩))
        · cases h

/-! ## Configurations and reset -/

theorem capacity_legal_iff (c : Capacity) : c.legal = true ↔ c ≠ .bounded 0 := by
  cases c with
  | unbounded => simp [Capacity.legal]
  | bounded n => simp [Capacity.legal]; omega

/-- The ranges of 00_scope.md R9, one by one. -/
theorem configuration_legal_iff (c : Configuration) :
    c.legal = true ↔ c.deviceId ≠ c.broadcastAddr ∧ c.maxPayload ≤ 65535 ∧ 1 ≤ c.timeoutTicks ∧ 1 ≤ c.pollTicks ∧
      c.pollTicks ≤ c.timeoutTicks ∧ 1 ≤ c.egressCap ∧ c.ingressCap ≠ .bounded 0 ∧ c.pendingCap ≠ .bounded 0 := by
  simp only [Configuration.legal, Bool.and_eq_true, decide_eq_true_eq, capacity_legal_iff, and_assoc]

theorem capacity_admits_zero (c : Capacity) : c.admits 0 = true := by
  cases c <;> simp [Capacity.admits]

theorem exec_reset_of_legal {c : Configuration} (hc : c.legal = true) (s : State) :
    exec (.reset c) s =
      .next { State.resetWith c with schedule := s.schedule, freeCount := s.freeCount, answer := .void } :=
  if_pos hc

theorem exec_reset_of_illegal {c : Configuration} (hc : ¬c.legal = true) (s : State) :
    exec (.reset c) s = .next { s with answer := .refused } :=
  if_neg hc

/-! ## The invariant under the named operations on state

Each takes what the operation's guard gives. A step's effect is one of these updates and writes to fields that the invariant does
not read. -/

theorem inv_resetWith {c : Configuration} (hc : c.legal = true) : Inv (State.resetWith c) where
  config := hc
  bit := .inl rfl
  queuedData := nofun
  pending := nofun
  delivered := nofun
  inFlight := nofun
  room := ⟨Nat.zero_le _, capacity_admits_zero _, capacity_admits_zero _⟩
  accumulator := Nat.zero_le _
  requests := nofun

theorem inv_answer {s : State} (h : Inv s) (a : Answer) : Inv { s with answer := a } := { h with }

theorem inv_emit {s : State} (h : Inv s) (code : DiagCode) (info : DiagInfo) : Inv (s.emit code info) := { h with }

theorem inv_recordSeen {s : State} (h : Inv s) (d b : Byte) : Inv (s.recordSeen d b) := { h with }

theorem inv_enqEgress {s : State} {item : EgressItem} (h : Inv s) (hf : egressFull s = false)
    (hl : ∀ r, item = .data r → r.payload.length ≤ s.cfg.maxPayload) : Inv (s.enqEgress item) :=
  { h with
    queuedData := fun r hr => by
      rcases List.mem_append.mp hr with hr | hr
      · exact h.queuedData r hr
      · exact hl r (List.mem_singleton.mp hr).symm
    room := by
      obtain ⟨he, hroom⟩ := h.room
      have hne : s.egress.length ≠ s.cfg.egressCap := by simpa [egressFull] using hf
      refine ⟨?_, hroom⟩
      simp only [enqEgress_egress, enqEgress_cfg, List.length_append, List.length_singleton]
      omega }

theorem inv_popEgress {s : State} {item : EgressItem} {rest : List EgressItem} (h : Inv s) (hq : s.egress = item :: rest) :
    Inv { s with egress := rest } :=
  { h with
    queuedData := fun r hr => h.queuedData r (hq ▸ List.mem_cons_of_mem _ hr)
    room := by
      obtain ⟨he, hroom⟩ := h.room
      rw [hq, List.length_cons] at he
      exact ⟨Nat.le_of_succ_le he, hroom⟩ }

theorem inv_enqIngress {s : State} {f : DataFrame} (h : Inv s) (hf : ingressFull s = false)
    (hs : soundFrame s.cfg f = true) (hd : f.destination = s.cfg.deviceId ∨ f.destination = s.cfg.broadcastAddr) :
    Inv (s.enqIngress f) :=
  { h with
    delivered := fun g hg => by
      rcases List.mem_append.mp hg with hg | hg
      · exact h.delivered g hg
      · cases List.mem_singleton.mp hg; exact ⟨hs, hd⟩
    room := by
      obtain ⟨he, hi, hp⟩ := h.room
      refine ⟨he, ?_, hp⟩
      simpa using capacity_admits_succ hi hf }

theorem inv_popIngress {s : State} {f : DataFrame} {rest : List DataFrame} (h : Inv s) (hq : s.ingress = f :: rest) :
    Inv { s with ingress := rest } :=
  { h with
    delivered := fun g hg => h.delivered g (hq ▸ List.mem_cons_of_mem _ hg)
    room := by
      obtain ⟨he, hi, hp⟩ := h.room
      rw [hq, List.length_cons] at hi
      exact ⟨he, capacity_admits_of_le hi (Nat.le_succ _), hp⟩ }

theorem inv_insertAck {s : State} {a : AckRec} (h : Inv s) (hf : pendingFull s = false)
    (hd : a.destination = s.cfg.deviceId) (hv : ackVerify a = true) : Inv (s.insertAck a) :=
  { h with
    pending := fun e he => by
      rcases List.mem_append.mp he with he | he
      · exact h.pending e he
      · cases List.mem_singleton.mp he; exact ⟨hd, by simpa [ackVerify] using hv⟩
    room := by
      obtain ⟨he, hi, hp⟩ := h.room
      refine ⟨he, hi, ?_⟩
      simpa using capacity_admits_succ hp hf }

theorem inv_removeAck {s : State} (h : Inv s) (e : AckRec) : Inv (s.removeAck e) :=
  { h with
    pending := fun a ha => h.pending a (List.mem_of_mem_erase ha)
    room := by
      obtain ⟨he, hi, hp⟩ := h.room
      exact ⟨he, hi, capacity_admits_of_le hp List.length_erase_le⟩ }

theorem inv_setTx_idle {s : State} (h : Inv s) : Inv (s.setTx .idle) := { h with inFlight := nofun }

/-- With no frame in flight either bit may be the next. -/
theorem inv_flipBit {s : State} (h : Inv s) : Inv { s.setTx .idle with nextAckToSend := 1 - s.nextAckToSend } :=
  { h with
    bit := by
      change 1 - s.nextAckToSend = 0 ∨ 1 - s.nextAckToSend = 1
      rcases h.bit with hb | hb <;> rw [hb] <;> decide
    inFlight := nofun }

theorem inv_acknowledge {s : State} {f : DataFrame} (h : Inv s) (hf : (unicast s f && egressFull s) = false) :
    Inv (s.acknowledge f) := by
  unfold State.acknowledge
  split
  case isTrue hu =>
    rw [hu, Bool.true_and] at hf
    exact inv_enqEgress h hf nofun
  case isFalse => exact h

/-! ## The invariant under each agent's step -/

/-- What `FRM.DECODE` accepts and both verifications pass is sound. -/
theorem soundFrame_of_verified {c : Configuration} {u : Bytes} {f : DataFrame} (hd : frmDecode c u = .ok f)
    (hh : frmVerifyHdr f = true) (hp : frmVerifyPay f = true) : soundFrame c f = true := by
  obtain ⟨-, hlen, hmax⟩ := frmDecode_ok hd
  simp [soundFrame, hlen, hmax, hh, hp]

/-- The outcome of a unit, where it is not held. -/
theorem inv_applyVerdict {s : State} {u : Bytes} (h : Inv s) (hv : verdictHeld s (classify s u) = false) :
    Inv (applyVerdict s u (classify s u)) := by
  rcases classify_cases s u with ⟨a, -, hc⟩ | ⟨-, ⟨reason, -, hc⟩ | ⟨f, hdec, hc⟩⟩
  · rcases hc with ⟨-, hc⟩ | ⟨-, -, hc⟩ | ⟨-, -, -, hc⟩ | ⟨hver, hdst, hroom, hc⟩ <;> rw [hc]
    · exact inv_emit h _ _
    · exact inv_emit h _ _
    · exact inv_emit h _ _
    · exact inv_insertAck h hroom hdst hver
  · rw [hc]; exact inv_emit h _ _
  · rcases hc with ⟨-, hc⟩ | ⟨-, -, hc⟩ | ⟨-, -, -, hc⟩ | ⟨-, -, -, -, hc⟩ | ⟨hh, hp, hadr, -, hc⟩ <;> rw [hc] at hv ⊢
    · exact inv_emit h _ _
    · exact inv_emit h _ _
    · exact inv_emit h _ _
    · exact inv_acknowledge (inv_emit h _ _) hv
    · obtain ⟨hin, heg⟩ := Bool.or_eq_false_iff.mp hv
      have hsound := soundFrame_of_verified hdec hh hp
      have hdst : f.destination = s.cfg.deviceId ∨ f.destination = s.cfg.broadcastAddr := by
        simpa [addressedHere] using hadr
      exact inv_acknowledge (inv_enqIngress (inv_recordSeen h _ _) hin hsound hdst) heg

theorem rx_keeps_inv {i : Instr} {s t : State} (hi : agentOf i = some .rx) (hs : Inv s) (h : exec i s = .next t) :
    Inv t := by
  cases rx_effect hi h with
  | held => exact inv_answer hs _
  | byte b rest buf esc => exact { hs with }
  | unit rest hc hv => exact { inv_applyVerdict hs hv with }

/-- The frame that `TX.DEQ_FRAME` stamps is as R38 (e) wants the frame in flight. -/
theorem inv_await_stamp {s : State} {r : SendReq} (h : Inv s) (hl : r.payload.length ≤ s.cfg.maxPayload)
    (hd : r.destination ≠ s.cfg.broadcastAddr) : Inv (s.setTx (.awaitingAck (stamp s r) s.now 0)) :=
  { h with
    inFlight := fun f t a hf => by
      cases hf
      exact ⟨rfl, hd, rfl, le_rfl, Nat.zero_le _, hl, rfl⟩ }

/-- The frame in flight stays, the timer starts again and one more attempt is counted. -/
theorem inv_await_again {s : State} {f : DataFrame} {t a : Nat} (h : Inv s) (hs : s.txState = .awaitingAck f t a)
    (ha : a < s.cfg.maxResend) : Inv (s.setTx (.awaitingAck f s.now (a + 1))) :=
  { h with
    inFlight := fun g t' a' hg => by
      cases hg
      obtain ⟨hsrc, hdst, hbit, -, -, hlen, hmade⟩ := h.inFlight f t a hs
      exact ⟨hsrc, hdst, hbit, le_rfl, ha, hlen, hmade⟩ }

theorem tx_keeps_inv {i : Instr} {s t : State} (hi : agentOf i = some .tx) (hs : Inv s) (h : exec i s = .next t) :
    Inv t := by
  cases tx_effect hi h with
  | held => exact inv_answer hs _
  | deqAck _ _ _ rest _ hq => exact { inv_popEgress hs hq with }
  | deqFrame r rest _ hq hd =>
    have hl : r.payload.length ≤ s.cfg.maxPayload := hs.queuedData r (hq ▸ List.mem_cons_self)
    exact { inv_await_stamp (inv_popEgress hs hq) hl hd with }
  | deqBcast r rest _ hq _ => exact { inv_popEgress hs hq with }
  | bypassAck _ _ _ _ _ _ rest _ hq => exact { inv_popEgress hs hq with }
  | ackMatch _ _ _ e => exact { inv_flipBit (inv_removeAck hs e) with }
  | ackStale _ _ _ e => exact { inv_removeAck hs e with }
  | resend f t a hst _ ha _ => exact { inv_await_again hs hst ha with }
  | abandon => exact { inv_setTx_idle hs with }

theorem inv_enqEgress_data {s : State} {r : SendReq} (h : Inv s) (hl : r.payload.length ≤ s.cfg.maxPayload)
    (hf : egressFull s = false) : Inv (s.enqEgress (.data r)) :=
  inv_enqEgress h hf fun _ hr => by cases hr; exact hl

theorem host_keeps_inv {i : Instr} {s t : State} (hi : agentOf i = some .host) (hs : Inv s) (h : exec i s = .next t) :
    Inv t := by
  rcases host_effect hi h with ⟨r, hl, -, -, rfl⟩ | ⟨r, -, -, rfl⟩ | ⟨r, hl, hf, -, rfl⟩ | ⟨-, -, rfl⟩ | ⟨f, rest, hq, -, rfl⟩
  · exact { hs with
      requests := fun q hq => by
        rcases List.mem_append.mp hq with hq | hq
        · exact hs.requests q hq
        · cases List.mem_singleton.mp hq; exact hl }
  · exact { hs with }
  · exact { inv_enqEgress_data hs hl hf with }
  · exact { hs with }
  · exact { inv_popIngress hs hq with }

/-- The step of a pending request; what still pends at the send port pended there before. -/
theorem port_keeps_inv {p : PortStep} {s t : State} (hs : Inv s) (h : portStep p s = .next t) : Inv t := by
  have herase (k : Nat) : ∀ q ∈ s.sendPort.eraseIdx k, q.payload.length ≤ s.cfg.maxPayload :=
    fun q hq => hs.requests q (List.mem_of_mem_eraseIdx hq)
  rcases port_effect h with rfl | ⟨k, r, -, -, -, rfl⟩ | ⟨k, r, -, -, hl, hf, rfl⟩ | ⟨f, rest, -, -, hq, rfl⟩
  · exact inv_answer hs _
  · exact { hs with requests := herase k }
  · exact { inv_enqEgress_data hs hl hf with requests := herase k }
  · exact { inv_popIngress hs hq with }

theorem env_keeps_inv {i : Instr} {s t : State} (hi : agentOf i = some .env) (hs : Inv s) (h : exec i s = .next t) :
    Inv t := by
  rcases env_effect hi h with ⟨-, rfl⟩ | ⟨c, -, ⟨-, rfl⟩ | ⟨hc, rfl⟩⟩
  · exact { hs with
      inFlight := fun f t a hf => by
        obtain ⟨hsrc, hdst, hbit, ht, hrest⟩ := hs.inFlight f t a hf
        exact ⟨hsrc, hdst, hbit, Nat.le_succ_of_le ht, hrest⟩ }
  · exact inv_answer hs _
  · exact { inv_resetWith hc with }

theorem pure_keeps_inv {i : Instr} {s t : State} (hi : agentOf i = none) (hs : Inv s) (h : exec i s = .next t) :
    Inv t := by
  obtain ⟨a, n, x, rfl, hacc⟩ := pure_effect hi h
  exact { hs with accumulator := hacc hs.accumulator }

/-- Every operation keeps the invariant. -/
theorem exec_keeps_inv {i : Instr} {s t : State} (hs : Inv s) (h : exec i s = .next t) : Inv t := by
  rcases agent_cases i with hi | hi | hi | hi | hi
  · exact pure_keeps_inv hi hs h
  · exact host_keeps_inv hi hs h
  · exact tx_keeps_inv hi hs h
  · exact rx_keeps_inv hi hs h
  · exact env_keeps_inv hi hs h

theorem mediumStep_keeps_inv {s : State} (hs : Inv s) (e : MediumEvent) : Inv (mediumStep e s) := by
  rw [mediumStep_frame]
  exact { hs with }

/-- Settles O54: the schedule is no part of the invariant, and each kind of step keeps it. -/
theorem stepKeepsTheInvariant : Obligations.StepKeepsTheInvariant := by
  intro s t hs h
  have hleft (left : Bytes) : Inv { s with schedule := left } := { hs with }
  rcases step_cases h with ⟨-, rfl⟩ | ⟨i, left, -, he⟩ | ⟨e, left, -, rfl⟩ | ⟨p, left, -, hp⟩
  · exact hs
  · exact exec_keeps_inv (hleft left) he
  · exact mediumStep_keeps_inv (hleft left) e
  · exact port_keeps_inv (hleft left) hp

/-! ## Between resets -/

/-- The configuration is `s`'s, time has not gone back, and what `s` transmitted and recorded stands in front. -/
abbrev Extends (s t : State) : Prop :=
  t.cfg = s.cfg ∧ s.now ≤ t.now ∧ s.txStream <+: t.txStream ∧ s.diag <+: t.diag

theorem extends_of_eq {s t : State} (hc : t.cfg = s.cfg) (hn : t.now = s.now) (hx : t.txStream = s.txStream)
    (hd : t.diag = s.diag) : Extends s t :=
  ⟨hc, hn.ge, hx ▸ List.prefix_rfl, hd ▸ List.prefix_rfl⟩

/-- An outcome of a unit records at most one event. -/
theorem diag_prefix_applyVerdict (s : State) (u : Bytes) (v : Verdict) : s.diag <+: (applyVerdict s u v).diag := by
  cases v <;> simp [applyVerdict, State.drop]

theorem applyVerdict_extends (s : State) (u : Bytes) (v : Verdict) : Extends s (applyVerdict s u v) := by
  have hd := diag_prefix_applyVerdict s u v
  rw [applyVerdict_frame]
  exact ⟨rfl, le_rfl, List.prefix_rfl, hd⟩

theorem rx_extends {i : Instr} {s t : State} (hi : agentOf i = some .rx) (h : exec i s = .next t) : Extends s t := by
  cases rx_effect hi h with
  | held => exact extends_of_eq rfl rfl rfl rfl
  | byte => exact extends_of_eq rfl rfl rfl rfl
  | unit => exact applyVerdict_extends s _ _

theorem tx_extends {i : Instr} {s t : State} (hi : agentOf i = some .tx) (h : exec i s = .next t) : Extends s t := by
  cases tx_effect hi h with
  | held | ackMatch => exact extends_of_eq rfl rfl rfl rfl
  | deqAck | deqFrame | deqBcast | bypassAck => exact ⟨rfl, le_rfl, List.prefix_append _ _, List.prefix_rfl⟩
  | ackStale | abandon => exact ⟨rfl, le_rfl, List.prefix_rfl, List.prefix_append _ _⟩
  | resend => exact ⟨rfl, le_rfl, List.prefix_append _ _, List.prefix_append _ _⟩

theorem host_extends {i : Instr} {s t : State} (hi : agentOf i = some .host) (h : exec i s = .next t) : Extends s t := by
  rcases host_effect hi h with ⟨r, -, -, -, rfl⟩ | ⟨r, -, -, rfl⟩ | ⟨r, -, -, -, rfl⟩ | ⟨-, -, rfl⟩ | ⟨f, rest, -, -, rfl⟩
  case inr.inl => exact ⟨rfl, le_rfl, List.prefix_rfl, List.prefix_append _ _⟩
  all_goals exact extends_of_eq rfl rfl rfl rfl

theorem pure_extends {i : Instr} {s t : State} (hi : agentOf i = none) (h : exec i s = .next t) : Extends s t := by
  obtain ⟨a, n, x, rfl, -⟩ := pure_effect hi h
  exact extends_of_eq rfl rfl rfl rfl

theorem env_extends {i : Instr} {s t : State} (hi : agentOf i = some .env) (hr : ∀ c, i ≠ .reset c)
    (h : exec i s = .next t) : Extends s t := by
  rcases env_effect hi h with ⟨-, rfl⟩ | ⟨c, rfl, -⟩
  · exact ⟨rfl, Nat.le_succ _, List.prefix_rfl, List.prefix_rfl⟩
  · exact absurd rfl (hr c)

/-- Settles O58, agent by agent. -/
theorem tracesGrowAndConfigurationStays : Obligations.TracesGrowAndConfigurationStays := by
  intro i s t h hr
  rcases agent_cases i with hi | hi | hi | hi | hi
  · exact pure_extends hi h
  · exact host_extends hi h
  · exact tx_extends hi h
  · exact rx_extends hi h
  · exact env_extends hi hr h

/-! ## Reset -/

/-- Settles O52: the state that a legal `RESET` leaves is written out by `exec_reset_of_legal`. -/
theorem resetGivesTheResetValues : Obligations.ResetGivesTheResetValues := by
  intro s c hc
  refine ⟨_, exec_reset_of_legal hc s, rfl, rfl, ?_, rfl, rfl, rfl, rfl, rfl, rfl, rfl, rfl, rfl, rfl⟩
  exact seen_resetWith c

/-- Settles O53: each way to be illegal contradicts one range of `configuration_legal_iff`. -/
theorem resetRefusesIllegalConfigurations : Obligations.ResetRefusesIllegalConfigurations := by
  constructor
  · intro s c hillegal
    refine exec_reset_of_illegal (fun hc => ?_) s
    obtain ⟨hid, hmax, htimeout, hpoll, hle, hegress, hingress, hpending⟩ := (configuration_legal_iff c).mp hc
    rcases hillegal with h | h | h | h | h | h | h | h
    · exact hid h
    · omega
    · omega
    · omega
    · omega
    · omega
    · exact hingress h
    · exact hpending h
  · intro s t c hc h
    rw [exec_reset_of_legal hc] at h
    cases h
    exact ⟨rfl, rfl, rfl, rfl, rfl, rfl⟩

/-- Settles O55: the configuration input of `State.reset` (log 5) is legal, and every legal one gives a state of the invariant
with the values of logs 6 and 27. -/
theorem resetMeetsTheInvariant : Obligations.ResetMeetsTheInvariant :=
  ⟨inv_resetWith (by decide), fun _ hc => inv_resetWith hc⟩

end Sys2Proof.Proofs

/-! What the schedule's front makes of a step (20_memory.md R62), the Receiver's step as its outcome (R62 (d)), and what each
agent's step leaves alone (R63). -/

namespace Sys2Proof.Proofs

open Sys2Proof Sys2Proof.Machine Sys2Proof.Laws

/-! ## What stands at the front of `schedule` -/

theorem step_of_empty {s : State} (hs : s.schedule = []) : step s = .next s := by
  simp only [step, hs]

theorem step_of_operation {s : State} {i : Instr} {left : Bytes} (hd : decode s.schedule = .ok (i, left)) :
    step s = exec i { s with schedule := left } := by
  cases hs : s.schedule with
  | nil => rw [hs] at hd; cases hd
  | cons op rest => rw [hs] at hd; simp only [step, hs, hd]

theorem step_of_medium {s : State} {why : Reject} {e : MediumEvent} {left : Bytes} (hd : decode s.schedule = .error why)
    (hm : takeMedium s.schedule = some (e, left)) : step s = .next (mediumStep e { s with schedule := left }) := by
  cases hs : s.schedule with
  | nil => rw [hs] at hm; cases hm
  | cons op rest => rw [hs] at hd hm; simp only [step, hs, hd, hm]

theorem step_of_port {s : State} {why : Reject} {p : PortStep} {left : Bytes} (hd : decode s.schedule = .error why)
    (hm : takeMedium s.schedule = none) (hp : takePort s.schedule = some (p, left)) :
    step s = portStep p { s with schedule := left } := by
  cases hs : s.schedule with
  | nil => rw [hs] at hp; cases hp
  | cons op rest => rw [hs] at hd hm hp; simp only [step, hs, hd, hm, hp]

theorem step_of_encodeMedium {s : State} {e : MediumEvent} {left : Bytes} (hs : s.schedule = encodeMedium e ++ left) :
    step s = .next (mediumStep e { s with schedule := left }) := by
  obtain ⟨why, hd⟩ := decode_encodeMedium e left
  exact step_of_medium (hs ▸ hd) (hs ▸ takeMedium_encodeMedium e left)

theorem step_of_encodePort {s : State} {p : PortStep} {left : Bytes} (hs : s.schedule = encodePort p ++ left) :
    step s = portStep p { s with schedule := left } := by
  obtain ⟨⟨why, hd⟩, hm⟩ := decode_encodePort p left
  exact step_of_port (hs ▸ hd) (hs ▸ hm) (hs ▸ takePort_encodePort p left)

/-- A refusal names the first byte, whichever way the bytes are no operation (log 15). -/
theorem refusalOf_of_decode {op : Byte} {rest : Bytes} {why : Reject} (hd : decode (op :: rest) = .error why) :
    refusalOf why = .noOperation op := by
  simp only [decode] at hd
  split at hd
  · split at hd <;> cases hd
    rfl
  · cases hd
    rfl

theorem step_of_noOperation {s : State} {op : Byte} {rest : Bytes} {why : Reject} (hs : s.schedule = op :: rest)
    (hd : decode s.schedule = .error why) (hm : takeMedium s.schedule = none) (hp : takePort s.schedule = none) :
    step s = .refused (.noOperation op) := by
  rw [hs] at hd hm hp
  simp only [step, hs, hd, hm, hp, refusalOf_of_decode hd]

/-- Settles O5: one lemma for each thing that can stand at the front of `schedule`; a medium event's index is the length of the
bytes before the one it names. -/
theorem stepTakesTheScheduledOperation : Obligations.StepTakesTheScheduledOperation := by
  refine ⟨fun s i left => step_of_operation, fun s b left => step_of_encodeMedium, ?_, ?_,
    fun s p left => step_of_encodePort, fun s op rest why => step_of_noOperation, fun s => step_of_empty⟩
  · intro s lost before behind left hrx hs
    have hlost : s.rxStream.eraseIdx before.length = before ++ behind := by
      rw [hrx, List.eraseIdx_append_of_length_le le_rfl, Nat.sub_self, List.eraseIdx_cons_zero]
    rw [step_of_encodeMedium hs, ← hlost]
    rfl
  · intro s b was before behind left hrx hs
    have haltered : s.rxStream.set before.length b = before ++ b :: behind := by
      rw [hrx, List.set_append_right _ _ le_rfl, Nat.sub_self, List.set_cons_zero]
    rw [step_of_encodeMedium hs, ← haltered]
    rfl

/-! ## A unit's handling is its outcome's operation -/

/-- An outcome's operation is the step of its unit, enabled for that verdict alone: in each verdict of the dispatch the operand
is the unit's own record. -/
theorem exec_outcomeInstr_classify (s : State) (u : Bytes) :
    exec (outcomeInstr u (classify s u)) s = outcomeStep s u (classify s u) := by
  rcases classify_cases s u with ⟨a, rfl, hc⟩ | ⟨-, ⟨reason, -, hc⟩ | ⟨f, hdec, hc⟩⟩
  · rcases hc with ⟨-, hc⟩ | ⟨-, -, hc⟩ | ⟨-, -, -, hc⟩ | ⟨-, -, -, hc⟩ <;> rw [hc] <;> rfl
  · rw [hc]; rfl
  · obtain ⟨rfl, -, -⟩ := frmDecode_ok hdec
    rcases hc with ⟨-, hc⟩ | ⟨-, -, hc⟩ | ⟨-, -, -, hc⟩ | ⟨-, -, -, -, hc⟩ | ⟨-, -, -, -, hc⟩ <;> rw [hc] <;> rfl

theorem outcomeStep_classify (s : State) (u : Bytes) : outcomeStep s u (classify s u) = unitStep s u := if_pos rfl

theorem outcomeStep_other {s : State} {u : Bytes} {v : Verdict} (h : classify s u ≠ v) :
    outcomeStep s u v = .next { s with answer := .held } := if_neg h

/-- Where the `FLAG` that completes `u` is next, the unit's step is the `FLAG`'s. -/
theorem unitStep_of_completes {s : State} {u rest : Bytes} (h : Completes s u rest) : unitStep s u = flagStep s := by
  obtain ⟨-, -, rfl⟩ := h
  exact unitStep_rxBuf s

theorem unitStep_of_not_held {s : State} {u rest : Bytes} (h : Completes s u rest)
    (hv : verdictHeld s (classify s u) = false) :
    unitStep s u =
      .next { applyVerdict { s with rxStream := rest, rxBuf := [] } u (classify s u) with answer := .void } := by
  rw [unitStep_eq h, hv]
  rfl

/-- No outcome of an Ack needs room in a queue (45_receiver.md R231). -/
theorem verdictHeld_classify_ackUnit (s : State) (a : AckRec) : verdictHeld s (classify s (ackUnit a)) = false := by
  rw [classify_ackUnit]
  split_ifs <;> rfl

/-- Settles O46: `RX.UNIT`, its outcomes and the unit formats are all `unitStep`, which `unitStep_eq` and `unitStep_hold` give. -/
theorem unitHandlingIsItsOutcome : Obligations.UnitHandlingIsItsOutcome := by
  refine ⟨?_, fun s u => unitStep_hold, ?_, fun s a => rfl, fun s f => rfl, ?_, fun s f rest => unitStep_of_not_held, ?_,
    fun s reason u => outcomeStep_other, ?_⟩
  · intro s u rest h
    have hflag : unitStep s u = flagStep s := unitStep_of_completes h
    obtain ⟨-, hesc, -⟩ := h
    exact ⟨hflag, hflag.trans (execBtRxbyte_flag hesc).symm⟩
  · intro s u
    exact ((exec_outcomeInstr_classify s u).trans (outcomeStep_classify s u)).symm
  · intro s a rest h
    exact unitStep_of_not_held h (verdictHeld_classify_ackUnit s a)
  · rintro s a i (⟨rfl, h⟩ | ⟨rfl, h⟩ | ⟨rfl, h⟩ | ⟨rfl, h⟩) <;> exact outcomeStep_other h
  · rintro s which f i (⟨rfl, h⟩ | ⟨rfl, h⟩ | ⟨rfl, h⟩ | ⟨rfl, h⟩) <;> exact outcomeStep_other h

/-! ## What each agent's step leaves alone

Each lemma reads its clause off the agent's effect, where what is written stands as a record update. -/

theorem pure_frame {i : Instr} {s t : State} (h : exec i s = .next t) (hi : agentOf i = none) :
    t = { s with acc := t.acc, answer := t.answer, freeCount := t.freeCount } := by
  obtain ⟨a, n, x, rfl, -⟩ := pure_effect hi h
  rfl

theorem host_frame {i : Instr} {s t : State} (h : exec i s = .next t) (hi : agentOf i = some .host) :
    t = { s with
      egress := t.egress, ingress := t.ingress, sendPort := t.sendPort, recvPort := t.recvPort, diag := t.diag
      answer := t.answer } ∧
    (t.egress = s.egress ∨ ∃ r, t.egress = s.egress ++ [.data r]) ∧ (t.ingress = s.ingress ∨ t.ingress = s.ingress.tail) ∧
    (t.sendPort = s.sendPort ∨ ∃ r, t.sendPort = s.sendPort ++ [r]) ∧
    (t.recvPort = s.recvPort ∨ t.recvPort = s.recvPort + 1) := by
  rcases host_effect hi h with ⟨r, -, -, -, rfl⟩ | ⟨r, -, -, rfl⟩ | ⟨r, -, -, -, rfl⟩ | ⟨-, -, rfl⟩ | ⟨f, rest, hq, -, rfl⟩
  · exact ⟨rfl, .inl rfl, .inl rfl, .inr ⟨r, rfl⟩, .inl rfl⟩
  · exact ⟨rfl, .inl rfl, .inl rfl, .inl rfl, .inl rfl⟩
  · exact ⟨rfl, .inr ⟨r, rfl⟩, .inl rfl, .inl rfl, .inl rfl⟩
  · exact ⟨rfl, .inl rfl, .inl rfl, .inl rfl, .inr rfl⟩
  · exact ⟨rfl, .inl rfl, .inr (hq ▸ rfl), .inl rfl, .inl rfl⟩

/-- The request at an index stands between those before it and those behind it, and taking it leaves these. -/
theorem split_at_getElem? {α : Type} {l : List α} {k : Nat} {r : α} (h : l[k]? = some r) :
    ∃ before behind, k = before.length ∧ l = before ++ r :: behind ∧ l.eraseIdx k = before ++ behind := by
  obtain ⟨hk, hr⟩ := List.getElem?_eq_some_iff.mp h
  refine ⟨l.take k, l.drop (k + 1), by simp [Nat.min_eq_left hk.le], ?_, List.eraseIdx_eq_take_drop_succ l k⟩
  rw [← hr, List.getElem_cons_drop, List.take_append_drop]

theorem port_frame {p : PortStep} {s t : State} (h : portStep p s = .next t) :
    t = { s with answer := .held } ∨
    (∃ before r behind, p = .send before.length ∧ s.sendPort = before ++ r :: behind ∧
      t = { s with
        sendPort := before ++ behind, egress := t.egress, diag := t.diag, answer := t.answer } ∧
      (t.egress = s.egress ++ [.data r] ∧ t.diag = s.diag ∧ t.answer = .queued ∨
        t.egress = s.egress ∧ s.diag.length + 1 = t.diag.length ∧ t.answer = .refused)) ∨
    (p = .recv ∧ s.recvPort = t.recvPort + 1 ∧ ∃ f, s.ingress = f :: t.ingress ∧
      t = { s with recvPort := t.recvPort, ingress := t.ingress, answer := .frame f }) := by
  rcases port_effect h with rfl | ⟨k, r, rfl, hk, -, rfl⟩ | ⟨k, r, rfl, hk, -, -, rfl⟩ | ⟨f, rest, rfl, hn, hq, rfl⟩
  · exact .inl rfl
  · obtain ⟨before, behind, rfl, hport, herase⟩ := split_at_getElem? hk
    exact .inr (.inl ⟨before, r, behind, rfl, hport, by rw [herase], .inr ⟨rfl, by simp, rfl⟩⟩)
  · obtain ⟨before, behind, rfl, hport, herase⟩ := split_at_getElem? hk
    exact .inr (.inl ⟨before, r, behind, rfl, hport, by rw [herase], .inl ⟨rfl, rfl, rfl⟩⟩)
  · exact .inr (.inr ⟨rfl, (Nat.sub_add_cancel (Nat.pos_of_ne_zero hn)).symm, f, hq, rfl⟩)

theorem tx_frame {i : Instr} {s t : State} (h : exec i s = .next t) (hi : agentOf i = some .tx) :
    t = { s with
      egress := t.egress, pendingAcks := t.pendingAcks, nextAckToSend := t.nextAckToSend, txState := t.txState,
      txStream := t.txStream, diag := t.diag, answer := t.answer } ∧
    (t.egress = s.egress ∨ t.egress = s.egress.tail) ∧
    (t.pendingAcks = s.pendingAcks ∨ ∃ e, t.pendingAcks = s.pendingAcks.erase e) := by
  cases tx_effect hi h with
  | held | resend | abandon => exact ⟨rfl, .inl rfl, .inl rfl⟩
  | deqAck _ _ _ _ _ hq | deqFrame _ _ _ hq | deqBcast _ _ _ hq | bypassAck _ _ _ _ _ _ _ _ hq =>
    exact ⟨rfl, .inr (hq ▸ rfl), .inl rfl⟩
  | ackMatch _ _ _ e | ackStale _ _ _ e => exact ⟨rfl, .inl rfl, .inr ⟨e, rfl⟩⟩

/-! ### The Receiver: an outcome appends at most one item to each queue -/

theorem egress_acknowledge (s : State) (f : DataFrame) :
    (s.acknowledge f).egress = s.egress ∨ ∃ a d n, (s.acknowledge f).egress = s.egress ++ [.ackOut a d n] := by
  rw [acknowledge_egress]
  split
  · exact .inl rfl
  · exact .inr ⟨_, _, _, rfl⟩

theorem egress_applyVerdict (s : State) (u : Bytes) (v : Verdict) :
    (applyVerdict s u v).egress = s.egress ∨ ∃ a d n, (applyVerdict s u v).egress = s.egress ++ [.ackOut a d n] := by
  cases v
  case frameDup f | frameNew f => exact egress_acknowledge _ f
  all_goals exact .inl rfl

theorem ingress_applyVerdict (s : State) (u : Bytes) (v : Verdict) :
    (applyVerdict s u v).ingress = s.ingress ∨ ∃ f, (applyVerdict s u v).ingress = s.ingress ++ [f] := by
  cases v
  case frameDup f => exact .inl (acknowledge_ingress _ f)
  case frameNew f => exact .inr ⟨f, acknowledge_ingress _ f⟩
  all_goals exact .inl rfl

theorem pendingAcks_applyVerdict (s : State) (u : Bytes) (v : Verdict) :
    (applyVerdict s u v).pendingAcks = s.pendingAcks ∨
      ∃ a, (applyVerdict s u v).pendingAcks = s.pendingAcks ++ [a] := by
  cases v
  case ackAccept a => exact .inr ⟨a, rfl⟩
  case frameDup f | frameNew f => exact .inl (acknowledge_pendingAcks _ f)
  all_goals exact .inl rfl

theorem rx_frame {i : Instr} {s t : State} (h : exec i s = .next t) (hi : agentOf i = some .rx) :
    t = { s with
      egress := t.egress, ingress := t.ingress, pendingAcks := t.pendingAcks, lastSeen := t.lastSeen,
      rxBuf := t.rxBuf, rxEsc := t.rxEsc, rxStream := t.rxStream, diag := t.diag, answer := t.answer } ∧
    (t.egress = s.egress ∨ ∃ a d n, t.egress = s.egress ++ [.ackOut a d n]) ∧
    (t.ingress = s.ingress ∨ ∃ f, t.ingress = s.ingress ++ [f]) ∧
    (t.pendingAcks = s.pendingAcks ∨ ∃ a, t.pendingAcks = s.pendingAcks ++ [a]) ∧
    (t.rxStream = s.rxStream ∨ ∃ b, s.rxStream = b :: t.rxStream) ∧
    ((t.egress = s.egress ∧ t.ingress = s.ingress ∧ t.pendingAcks = s.pendingAcks ∧ t.lastSeen = s.lastSeen ∧
        t.diag = s.diag) ∨
      (Completes s s.rxBuf t.rxStream ∧ t.rxBuf = [] ∧ t.rxEsc = false)) := by
  cases rx_effect hi h with
  | held => exact ⟨rfl, .inl rfl, .inl rfl, .inl rfl, .inl rfl, .inl ⟨rfl, rfl, rfl, rfl, rfl⟩⟩
  | byte b rest buf esc hs =>
    exact ⟨rfl, .inl rfl, .inl rfl, .inl rfl, .inr ⟨b, hs⟩, .inl ⟨rfl, rfl, rfl, rfl, rfl⟩⟩
  | unit rest hc hv =>
    have hegress := egress_applyVerdict s s.rxBuf (classify s s.rxBuf)
    have hingress := ingress_applyVerdict s s.rxBuf (classify s s.rxBuf)
    have hpending := pendingAcks_applyVerdict s s.rxBuf (classify s s.rxBuf)
    rw [applyVerdict_frame]
    exact ⟨rfl, hegress, hingress, hpending, .inr ⟨Config.flag, hc.1⟩, .inr ⟨hc, rfl, hc.2.1⟩⟩

theorem env_frame {i : Instr} {s t : State} (h : exec i s = .next t) (hi : agentOf i = some .env)
    (hr : ∀ c, i ≠ .reset c) : t = { s with now := t.now, answer := t.answer } := by
  rcases env_effect hi h with ⟨-, rfl⟩ | ⟨c, rfl, -⟩
  · rfl
  · exact absurd rfl (hr c)

/-- Settles O57, agent by agent, and the steps of pending requests beside the host's. -/
theorem agentsWriteOnlyTheirState : Obligations.AgentsWriteOnlyTheirState :=
  ⟨fun _ _ _ => pure_frame, fun _ _ _ => host_frame, fun _ _ _ => port_frame, fun _ _ _ => tx_frame,
    fun _ _ _ => rx_frame, fun _ _ _ => env_frame⟩

end Sys2Proof.Proofs

/-! The decoders read back what the encoders write and nothing else (30_encoding.md R81, R82, R90, R110), the Ack checksum's value
(R87), and what a card in the invariant transmits (R97). -/

namespace Sys2Proof.Proofs

open Sys2Proof Sys2Proof.Machine Sys2Proof.Laws

/-! ## Operations -/

/-- The decoder reads an operation exactly where a known identifier is followed by its operands. -/
theorem decode_cons_ok_iff {op : Byte} {bs : Bytes} {r : Instr × Bytes} :
    decode (op :: bs) = .ok r ↔ identifiers.contains op = true ∧ decodeOperands op bs = some r := by
  simp only [decode]
  by_cases hop : identifiers.contains op = true
  · rw [if_pos hop]
    cases decodeOperands op bs with
    | none => exact ⟨nofun, fun h => nomatch h.2⟩
    | some r' => simp only [hop, true_and, Except.ok.injEq, Option.some.injEq]
  · rw [if_neg hop]
    exact ⟨nofun, fun h => absurd h.1 hop⟩

/-- Settles O1: the encoding is the operation's identifier, which the decoder knows, before its operands, which are read back. -/
theorem decodeOfEncodeIsTheOperation : Obligations.DecodeOfEncodeIsTheOperation := by
  intro i rest hi
  exact decode_cons_ok_iff.mpr ⟨identifier_mem i, decodeOperands_operandBytes hi rest⟩

/-- Settles O2: the operands fix the identifier before them, and they are what the operation's encoding holds. -/
theorem decodedBytesAreTheEncoding : Obligations.DecodedBytesAreTheEncoding := by
  intro bs i rest h
  cases bs with
  | nil => cases h
  | cons op bs =>
    obtain ⟨-, hoperands⟩ := decode_cons_ok_iff.mp h
    obtain ⟨hi, rfl, rfl⟩ := operandBytes_decodeOperands hoperands
    exact ⟨hi, rfl⟩

/-! ## Units -/

theorem decodeUnit_ackUnit (a : AckRec) : decodeUnit (ackUnit a) = some (.uAck a) := by
  have hsize : (ackUnit a).length = Config.ackSize := ackUnit_length a
  have htake : takeAckUnit (ackUnit a) = some (a, []) := takeAckUnit_ackUnit a []
  rw [decodeUnit, if_pos hsize, htake]

/-- A frame's unit has nine bytes or more, so it is not taken for an Ack. -/
theorem decodeUnit_frameUnit (f : DataFrame) (hl : f.payloadLength.toNat = f.payload.length) :
    decodeUnit (frameUnit f) = some (.uData f) := by
  have hsize : (frameUnit f).length ≠ Config.ackSize := by
    rw [frameUnit_length, Config.ackSize]
    omega
  have htake : takeFrameUnit (frameUnit f) = some (f, []) := by
    rw [← List.append_nil (frameUnit f)]
    exact takeFrameUnit_frameUnit hl []
  rw [decodeUnit, if_neg hsize, htake]

/-- A unit that decodes is the whole unit of its record, in one of the two formats. -/
theorem decodeUnit_some {u : Bytes} {i : Instr} (h : decodeUnit u = some i) :
    (∃ a, i = .uAck a ∧ u = ackUnit a) ∨
    (∃ f, i = .uData f ∧ u = frameUnit f ∧ f.payloadLength.toNat = f.payload.length) := by
  unfold decodeUnit at h
  split at h
  case isTrue =>
    split at h
    next a htake =>
      cases h
      exact .inl ⟨a, rfl, by simpa using ackUnit_takeAckUnit htake⟩
    next => cases h
  case isFalse =>
    split at h
    next f htake =>
      cases h
      obtain ⟨hu, hl⟩ := frameUnit_takeFrameUnit htake
      exact .inr ⟨f, rfl, by simpa using hu, hl⟩
    next => cases h

/-- Settles O4: each format is read back, and what decodes was one of the two. -/
theorem unitFormatsReadBack : Obligations.UnitFormatsReadBack :=
  ⟨decodeUnit_ackUnit, decodeUnit_frameUnit, fun _ _ => decodeUnit_some⟩

/-- Settles O3: the words that decode are encodings and units written out, so O1 and O4 give them; the other two are evaluated. -/
theorem sampleWordsDecode : Obligations.SampleWordsDecode :=
  ⟨decodeOfEncodeIsTheOperation .chkInit [] rfl,
    decodeOfEncodeIsTheOperation .txDeqFrame [] rfl,
    decodeOfEncodeIsTheOperation .hostRecv [0x72] rfl,
    decodeOfEncodeIsTheOperation (.btRxbyte 0x7E) [] rfl,
    rfl,
    decodeUnit_ackUnit ⟨2, 1, 0, 0xFFFC⟩,
    decodeUnit_frameUnit ⟨1, 2, 0, 2, 0xFFFA, [0x68, 0x69], 0xFF2E⟩ rfl,
    rfl⟩

/-! ## The Ack checksum -/

/-- Settles O14: three bytes add up to at most 765, which needs no fold. -/
theorem ackChecksumIsPlainComplement : Obligations.AckChecksumIsPlainComplement := by
  intro source destination number
  have hvalue := ackSum_toNat source destination number
  refine ⟨rfl, hvalue, ?_⟩
  have hs := source.isLt
  have hd := destination.isLt
  have hn := number.isLt
  omega

/-! ## What a card transmits -/

/-- What `FRM.ENCODE` makes of a payload within MAX_PAYLOAD is sound: MAX_PAYLOAD of a legal configuration fits the length field. -/
theorem soundFrame_makeFrame {c : Configuration} (hc : c.legal = true) (source destination ackBit : Byte) {payload : Bytes}
    (hl : payload.length ≤ c.maxPayload) : soundFrame c (makeFrame source destination ackBit payload) = true := by
  obtain ⟨-, hmax, -⟩ := (configuration_legal_iff c).mp hc
  have hlen := makeFrame_payloadLength source destination ackBit (hl.trans hmax)
  obtain ⟨hhdr, hpay⟩ := frmVerify_makeFrame source destination ackBit payload
  simp only [soundFrame, hhdr, hpay, Bool.and_true, Bool.and_eq_true, decide_eq_true_eq]
  exact ⟨hlen, hl⟩

/-- A frame this card may transmit: sound, from this card, its sequence bit 0 or 1. -/
abbrev OwnFrame (s : State) (f : DataFrame) : Prop :=
  soundFrame s.cfg f = true ∧ f.source = s.cfg.deviceId ∧ (f.ackBit = 0 ∨ f.ackBit = 1)

/-- The frame stamped for a request at the head of `egress`. -/
theorem ownFrame_stamp {s : State} {r : SendReq} {rest : List EgressItem} (h : Inv s) (hq : s.egress = .data r :: rest) :
    OwnFrame s (stamp s r) :=
  have hl : r.payload.length ≤ s.cfg.maxPayload := h.queuedData r (hq ▸ List.mem_cons_self)
  ⟨soundFrame_makeFrame h.config _ _ _ hl, rfl, h.bit⟩

/-- The frame in flight, which is as `FRM.ENCODE` made it. -/
theorem ownFrame_inFlight {s : State} {f : DataFrame} {t a : Nat} (h : Inv s) (hf : s.txState = .awaitingAck f t a) :
    OwnFrame s f := by
  obtain ⟨hsource, -, hbit, -, -, hl, hmade⟩ := h.inFlight f t a hf
  refine ⟨?_, hsource, hbit ▸ h.bit⟩
  rw [hmade]
  exact soundFrame_makeFrame h.config _ _ _ hl

/-- Only the Transmitter writes `tx_stream`, but for `RESET`. -/
theorem agentOf_eq_tx_of_txStream_ne {i : Instr} {s t : State} (h : exec i s = .next t) (hx : t.txStream ≠ s.txStream)
    (hr : ∀ c, i ≠ .reset c) : agentOf i = some .tx := by
  rcases agent_cases i with hi | hi | hi | hi | hi
  · exact absurd (congrArg State.txStream (pure_frame h hi)) hx
  · exact absurd (congrArg State.txStream (host_frame h hi).1) hx
  · exact hi
  · exact absurd (congrArg State.txStream (rx_frame h hi).1) hx
  · exact absurd (congrArg State.txStream (env_frame h hi hr)) hx

/-- Settles O59: of the Transmitter's effects five append a unit, two of them an Ack from the head of `egress`, two the frame stamped
there, one the frame in flight. -/
theorem emittedUnitsAreWellFormed : Obligations.EmittedUnitsAreWellFormed := by
  intro i s t hs h hx hr
  have hi : agentOf i = some .tx := agentOf_eq_tx_of_txStream_ne h hx hr
  cases tx_effect hi h with
  | held | ackMatch | ackStale | abandon => exact absurd rfl hx
  | deqAck source destination number _ _ hq | bypassAck _ _ _ source destination number _ _ hq =>
    exact .inr ⟨source, destination, number, rfl, hq ▸ List.mem_cons_self⟩
  | deqFrame r _ _ hq | deqBcast r _ _ hq => exact .inl ⟨stamp s r, rfl, ownFrame_stamp hs hq⟩
  | resend f _ _ hf => exact .inl ⟨f, rfl, ownFrame_inFlight hs hf⟩

end Sys2Proof.Proofs

/-! The checksum engine (40_checksum.md R121 to R130): what its operations do, the closed form of the checksum and what follows
from it, and that a frame unit with one byte altered is not accepted. -/

namespace Sys2Proof.Proofs

open Sys2Proof Sys2Proof.Machine Sys2Proof.Laws

/-! ## One operation -/

/-- Settles O6: the meaning of `CHK.INIT` is this record update. -/
theorem chkInitClearsTheAccumulator : Obligations.ChkInitClearsTheAccumulator := fun _ => rfl

theorem exec_chkAdd (v : Half) (s : State) :
    exec (.chkAdd v) s = .next { s with acc := chkAdd s.acc v, answer := .void } := rfl

/-- Settles O7: the exact sum is at most 0x1FFFE, so one fold is all that `CHK.ADD` does. -/
theorem chkAddFoldsTheCarryBack : Obligations.ChkAddFoldsTheCarryBack := by
  intro s v hacc
  have hv := v.isLt
  have hfold : fold (s.acc.toNat + v.toNat) ≤ 0xFFFF := fold_le (by omega)
  have hadd : chkAdd s.acc v = BitVec.ofNat 32 (fold (s.acc.toNat + v.toNat)) := by
    rw [← chkAdd_toNat hacc, BitVec.ofNat_toNat, BitVec.setWidth_eq]
  rw [← fold_eq, exec_chkAdd, hadd]
  exact ⟨rfl, hfold⟩

/-- Settles O8: a sum that folds to at most 0xFFFF leaves nothing for a further fold. -/
theorem oneFoldPerElementIsEnough : Obligations.OneFoldPerElementIsEnough := by
  intro acc v hacc hv
  have hsum : acc + v ≤ 0x1FFFE := by omega
  have hhigh : (acc + v) >>> 16 = 0 ∨ (acc + v) >>> 16 = 1 := by
    rw [Nat.shiftRight_eq_div_pow]
    omega
  exact ⟨hsum, hhigh, fold_eq _, fold_le hsum, fun turns => foldWhile_of_le turns (fold_le hsum)⟩

/-- `setWidth 16` takes the sixteen bits that R123's mask keeps. -/
theorem chkFinal_eq_masked (acc : Acc) : chkFinal acc = (~~~acc &&& 0xFFFF).setWidth 16 := by
  have hmask : (0xFFFF : Acc).setWidth 16 = BitVec.allOnes 16 := rfl
  rw [chkFinal, BitVec.setWidth_and, hmask, BitVec.and_allOnes]

/-- Settles O9: the model's `chkFinal` is the masked complement. -/
theorem chkFinalComplementsTheAccumulator : Obligations.ChkFinalComplementsTheAccumulator := by
  refine ⟨fun s => ?_, fun acc hacc => ?_⟩
  · rw [← chkFinal_eq_masked]
    rfl
  · rw [← chkFinal_eq_masked, chkFinal_toNat hacc]

/-! ## A sequence of elements -/

/-- `CHK.ADD` of each element and then `CHK.FINAL`, from any accumulator. -/
theorem execAll_chkAdd_chkFinal (vs : List Half) (s : State) :
    execAll (vs.map .chkAdd ++ [.chkFinal]) s =
      .next { s with acc := vs.foldl chkAdd s.acc, answer := .sum (chkFinal (vs.foldl chkAdd s.acc)) } := by
  induction vs generalizing s with
  | nil => rfl
  | cons v vs ih => exact ih { s with acc := chkAdd s.acc v, answer := .void }

/-- Settles O10: `CHK.INIT` gives the accumulator 0 from which `CHK.SUM` starts. -/
theorem chkSumIsInitAddFinal : Obligations.ChkSumIsInitAddFinal := fun s vs =>
  ⟨vs.foldl chkAdd 0, chkSum vs, execAll_chkAdd_chkFinal vs { s with acc := 0, answer := .void }, rfl⟩

/-- Settles O11: the closed form is `residue`, which `CHK.FINAL` takes from 0xFFFF. -/
theorem checksumHasItsClosedForm : Obligations.ChecksumHasItsClosedForm := by
  intro vs
  have hvalue : chkSum vs = BitVec.ofNat 16 (if total vs = 0 then 0xFFFF else 0xFFFF - ((total vs - 1) % 65535 + 1)) := by
    apply BitVec.eq_of_toNat_eq
    rw [chkSum_toNat, BitVec.toNat_ofNat, residue]
    split <;> omega
  refine ⟨foldl_chkAdd_zero vs, fun s => ⟨s.acc, ?_⟩, fun h => ?_⟩
  · rw [← hvalue]
    rfl
  · rw [chkSum_toNat, residue_of_le h]

/-- Settles O12: the checksum depends on the exact sum alone, and folding keeps what it takes of it. -/
theorem checksumIgnoresOrderAndGrouping : Obligations.ChecksumIgnoresOrderAndGrouping := by
  refine ⟨fun vs ws h => ?permutation, fun vs ws => ?zero, fun vs turns h => ?folding, rfl, rfl, rfl⟩
  case permutation => rw [chkSum_eq_iff, total, (h.map _).sum_eq]
  case zero => simp [chkSum_eq_iff, total]
  case folding => rw [foldl_chkAdd_zero, ← residue_foldWhile turns, residue_of_le h]

/-! ## The two zeros -/

theorem residue_eq_top_iff {t : Nat} : residue t = 0xFFFF ↔ 0 < t ∧ 65535 ∣ t := by
  unfold residue
  split <;> omega

theorem foldl_chkAdd_eq_zero_iff (vs : List Half) : vs.foldl chkAdd 0 = 0 ↔ total vs = 0 := by
  rw [← BitVec.toNat_inj, foldl_chkAdd_zero]
  exact residue_eq_zero

theorem foldl_chkAdd_eq_top_iff (vs : List Half) : (vs.foldl chkAdd 0).toNat = 0xFFFF ↔ 0 < total vs ∧ 65535 ∣ total vs := by
  rw [foldl_chkAdd_zero, residue_eq_top_iff]

theorem chkSum_eq_top_iff (vs : List Half) : chkSum vs = 0xFFFF ↔ vs.foldl chkAdd 0 = 0 := by
  have h := residue_le (total vs)
  have htop : (0xFFFF : Half).toNat = 0xFFFF := rfl
  rw [foldl_chkAdd_eq_zero_iff, ← residue_eq_zero, ← BitVec.toNat_inj, chkSum_toNat, htop]
  omega

theorem chkSum_eq_zero_iff (vs : List Half) : chkSum vs = 0 ↔ (vs.foldl chkAdd 0).toNat = 0xFFFF := by
  have h := residue_le (total vs)
  have hzero : (0 : Half).toNat = 0 := rfl
  rw [foldl_chkAdd_zero, ← BitVec.toNat_inj, chkSum_toNat, hzero]
  omega

/-- Verification is equality (41_frame_codec.md R144): a stored checksum that is not the computed one does not verify. -/
theorem frmVerifyPay_eq_false_of_ne {f : DataFrame} {x y : Half} (hxy : x ≠ y) (hx : f.payloadChecksum = x)
    (hy : payloadSum f.payload = y) : frmVerifyPay f = false := by
  rw [frmVerifyPay, hx, hy]
  exact beq_eq_false_iff_ne.mpr hxy

/-- Settles O13: the accumulator is 0 exactly for the exact sum 0, and 0xFFFF exactly for the other multiples of 65535; 257 bytes
of 0xFF add up to 65535. -/
theorem theTwoZerosStayApart : Obligations.TheTwoZerosStayApart := by
  have hbytes : payloadSum (List.replicate 257 0xFF) = 0 := by
    rw [payloadSum, chkSum_eq_zero_iff, foldl_chkAdd_eq_top_iff]
    have htotal : total ((List.replicate 257 (0xFF : Byte)).map element) = 65535 := by
      simp only [total, List.map_replicate, List.sum_replicate, element_toNat]
      rfl
    rw [htotal]
    decide
  refine ⟨fun vs => ?_, foldl_chkAdd_eq_top_iff, chkSum_eq_top_iff, chkSum_eq_zero_iff, rfl, rfl, rfl, rfl, hbytes,
    fun f => frmVerifyPay_eq_false_of_ne (by decide), fun f => frmVerifyPay_eq_false_of_ne (by decide)⟩
  rw [foldl_chkAdd_eq_zero_iff, total, List.sum_eq_zero_iff, List.forall_mem_map]
  exact forall₂_congr fun v _ => BitVec.toNat_inj (y := 0)

/-! ## Single-bit errors -/

/-- R130's argument: two bytes differ by at most 255, which the checksum does not lose. -/
theorem chkSum_ne_of_element_ne (pre post : List Half) {b b' : Byte} (hb : b' ≠ b) :
    chkSum (pre ++ element b' :: post) ≠ chkSum (pre ++ element b :: post) := by
  have htotal (x : Byte) : total (pre ++ element x :: post) = total pre + x.toNat + total post := by
    simp only [total, List.map_append, List.map_cons, List.sum_append, List.sum_cons, element_toNat]
    omega
  have hne : b'.toNat ≠ b.toNat := fun h => hb (BitVec.eq_of_toNat_eq h)
  have hlt := b.isLt
  have hlt' := b'.isLt
  rw [Ne, chkSum_eq_iff, htotal, htotal]
  rcases Nat.lt_or_gt_of_ne hne with h | h
  · exact residue_ne (d := b.toNat - b'.toNat) (by omega) (by omega) (.inl (by omega))
  · exact residue_ne (d := b'.toNat - b.toNat) (by omega) (by omega) (.inr (by omega))

theorem soundFrame_iff {c : Configuration} {f : DataFrame} :
    soundFrame c f = true ↔ f.payloadLength.toNat = f.payload.length ∧ f.payload.length ≤ c.maxPayload ∧
      f.headerChecksum = headerSum f.source f.destination f.ackBit f.payloadLength ∧
      f.payloadChecksum = payloadSum f.payload := by
  simp only [soundFrame, frmVerifyHdr, frmVerifyPay, Bool.and_eq_true, decide_eq_true_eq, beq_iff_eq, and_assoc]

/-- A unit is accepted exactly where the record it lays out is sound. -/
theorem acceptedFrame_frameUnit (c : Configuration) (f : DataFrame) : acceptedFrame c (frameUnit f) = soundFrame c f := by
  have hlen := be16_toNat (hi8 f.payloadLength) (lo8 f.payloadLength)
  rw [be16_hi8_lo8] at hlen
  rw [acceptedFrame, frameUnit, frmDecode_parts, ← hlen]
  simp only [be16_hi8_lo8]
  by_cases hmax : f.payload.length > c.maxPayload
  · simp [hmax, soundFrame]
  · by_cases hfit : f.payloadLength.toNat = f.payload.length
    · simp [hmax, hfit, soundFrame, Nat.le_of_not_lt hmax]
    · simp [hmax, hfit, soundFrame]

/-- The record `f'` is `f` with another value in one field, or with another byte at one place of the payload. -/
inductive OneFieldAltered (f : DataFrame) : DataFrame → Prop
  | source (b : Byte) : b ≠ f.source → OneFieldAltered f { f with source := b }
  | destination (b : Byte) : b ≠ f.destination → OneFieldAltered f { f with destination := b }
  | ackBit (b : Byte) : b ≠ f.ackBit → OneFieldAltered f { f with ackBit := b }
  | payloadLength (v : Half) : v ≠ f.payloadLength → OneFieldAltered f { f with payloadLength := v }
  | headerChecksum (v : Half) : v ≠ f.headerChecksum → OneFieldAltered f { f with headerChecksum := v }
  | payload (pre post : Bytes) (b b' : Byte) : f.payload = pre ++ b :: post → b' ≠ b →
      OneFieldAltered f { f with payload := pre ++ b' :: post }
  | payloadChecksum (v : Half) : v ≠ f.payloadChecksum → OneFieldAltered f { f with payloadChecksum := v }

theorem not_soundFrame_of_oneFieldAltered {c : Configuration} {f f' : DataFrame} (h : OneFieldAltered f f')
    (hf : soundFrame c f = true) : ¬soundFrame c f' = true := by
  obtain ⟨hlen, -, hhdr, hpay⟩ := soundFrame_iff.mp hf
  intro hf'
  obtain ⟨hlen', -, hhdr', hpay'⟩ := soundFrame_iff.mp hf'
  cases h with
  | source b hb => exact chkSum_ne_of_element_ne [] _ hb (hhdr'.symm.trans hhdr)
  | destination b hb => exact chkSum_ne_of_element_ne [element f.source] _ hb (hhdr'.symm.trans hhdr)
  | ackBit b hb => exact chkSum_ne_of_element_ne [element f.source, element f.destination] _ hb (hhdr'.symm.trans hhdr)
  | payloadLength v hv => exact hv (BitVec.eq_of_toNat_eq (hlen'.trans hlen.symm))
  | headerChecksum v hv => exact hv (hhdr'.trans hhdr.symm)
  | payloadChecksum v hv => exact hv (hpay'.trans hpay.symm)
  | payload pre post b b' hp hb =>
    have hsame : payloadSum (pre ++ b' :: post) = payloadSum (pre ++ b :: post) := hp ▸ hpay'.symm.trans hpay
    simp only [payloadSum, List.map_append, List.map_cons] at hsame
    exact chkSum_ne_of_element_ne _ _ hb hsame

theorem be16_ne_of_hi8_ne {v : Half} {b : Byte} (hb : b ≠ hi8 v) : be16 b (lo8 v) ≠ v :=
  fun h => hb (by rw [← h, hi8_be16])

theorem be16_ne_of_lo8_ne {v : Half} {b : Byte} (hb : b ≠ lo8 v) : be16 (hi8 v) b ≠ v :=
  fun h => hb (by rw [← h, lo8_be16])

/-- Where a byte of a sequence with two bytes appended stands. -/
theorem append_pair_eq_append_cons {p pre post : Bytes} {x y b : Byte} (h : p ++ [x, y] = pre ++ b :: post) :
    (∃ mid, p = pre ++ b :: mid ∧ post = mid ++ [x, y]) ∨ (pre = p ∧ b = x ∧ post = [y]) ∨
    (pre = p ++ [x] ∧ b = y ∧ post = []) := by
  rcases List.append_eq_append_iff.mp h with ⟨l, rfl, hl⟩ | ⟨l, rfl, hl⟩
  · match l, hl with
    | [], hl => cases hl; exact .inr (.inl ⟨by simp, rfl, rfl⟩)
    | [_], hl => cases hl; exact .inr (.inr ⟨rfl, rfl, rfl⟩)
    | _ :: _ :: _, hl => simp at hl
  · match l, hl with
    | [], hl => cases hl; exact .inr (.inl ⟨by simp, rfl, rfl⟩)
    | _ :: mid, hl => cases hl; exact .inl ⟨mid, rfl, rfl⟩

/-- One byte of a unit altered is one field of its record altered, by the place of the byte (30_encoding.md R81). -/
theorem oneFieldAltered_of_byte_ne {f : DataFrame} {pre post : Bytes} {b b' : Byte} (hu : frameUnit f = pre ++ b :: post)
    (hb : b' ≠ b) : ∃ f', OneFieldAltered f f' ∧ pre ++ b' :: post = frameUnit f' := by
  match pre, hu with
  | [], hu => cases hu; exact ⟨_, .source b' hb, rfl⟩
  | [_], hu => cases hu; exact ⟨_, .destination b' hb, rfl⟩
  | [_, _], hu => cases hu; exact ⟨_, .ackBit b' hb, rfl⟩
  | [_, _, _], hu =>
    cases hu
    exact ⟨_, .payloadLength _ (be16_ne_of_hi8_ne hb), by simp [frameUnit, hi8_be16, lo8_be16]⟩
  | [_, _, _, _], hu =>
    cases hu
    exact ⟨_, .payloadLength _ (be16_ne_of_lo8_ne hb), by simp [frameUnit, hi8_be16, lo8_be16]⟩
  | [_, _, _, _, _], hu =>
    cases hu
    exact ⟨_, .headerChecksum _ (be16_ne_of_hi8_ne hb), by simp [frameUnit, hi8_be16, lo8_be16]⟩
  | [_, _, _, _, _, _], hu =>
    cases hu
    exact ⟨_, .headerChecksum _ (be16_ne_of_lo8_ne hb), by simp [frameUnit, hi8_be16, lo8_be16]⟩
  | b0 :: b1 :: b2 :: b3 :: b4 :: b5 :: b6 :: pre, hu =>
    simp only [frameUnit, List.cons_append, List.nil_append, List.cons.injEq] at hu
    obtain ⟨rfl, rfl, rfl, rfl, rfl, rfl, rfl, hu⟩ := hu
    rcases append_pair_eq_append_cons hu with ⟨mid, hp, rfl⟩ | ⟨rfl, rfl, rfl⟩ | ⟨rfl, rfl, rfl⟩
    · exact ⟨_, .payload pre mid b b' hp hb, by simp [frameUnit]⟩
    · exact ⟨_, .payloadChecksum _ (be16_ne_of_hi8_ne hb), by simp [frameUnit, hi8_be16, lo8_be16]⟩
    · exact ⟨_, .payloadChecksum _ (be16_ne_of_lo8_ne hb), by simp [frameUnit, hi8_be16, lo8_be16]⟩

/-- Any other value in one byte of an accepted unit is detected, so any flipped bit is. -/
theorem acceptedFrame_eq_false_of_byte_ne {c : Configuration} {f : DataFrame} {pre post : Bytes} {b b' : Byte}
    (hf : soundFrame c f = true) (hu : frameUnit f = pre ++ b :: post) (hb : b' ≠ b) :
    acceptedFrame c (pre ++ b' :: post) = false := by
  obtain ⟨f', halt, hu'⟩ := oneFieldAltered_of_byte_ne hu hb
  rw [hu', acceptedFrame_frameUnit]
  exact Bool.eq_false_iff.mpr (not_soundFrame_of_oneFieldAltered halt hf)

theorem flipBitOfByte_ne (b : Byte) {k : Nat} (hk : k < 8) : flipBitOfByte b k ≠ b := by
  intro h
  have hbit : (b ^^^ BitVec.ofNat 8 (2 ^ k)).getLsbD k = b.getLsbD k := congrArg (·.getLsbD k) h
  rw [BitVec.getLsbD_xor, BitVec.getLsbD_ofNat, Nat.testBit_two_pow_self] at hbit
  simp [hk] at hbit

/-- Settles O22: a flipped bit is an altered byte. -/
theorem singleBitErrorsAreDetected : Obligations.SingleBitErrorsAreDetected := by
  intro c source destination ackBit payload hl hmax
  have hsound : soundFrame c (makeFrame source destination ackBit payload) = true :=
    have hlen := makeFrame_payloadLength source destination ackBit (hl.trans hmax)
    have ⟨hhdr, hpay⟩ := frmVerify_makeFrame source destination ackBit payload
    soundFrame_of_verified (frmDecode_frameUnit c hlen hl) hhdr hpay
  refine ⟨(acceptedFrame_frameUnit c _).trans hsound, fun k hk => ?_⟩
  have hbyte : k / 8 < (frmEncode source destination ackBit payload).length := by omega
  obtain ⟨pre, b, post, hu, -, hflip⟩ := List.exists_of_modify (flipBitOfByte · (k % 8)) hbyte
  rw [flipBit, hflip]
  exact acceptedFrame_eq_false_of_byte_ne hsound hu (flipBitOfByte_ne b (Nat.mod_lt k (by decide)))

end Sys2Proof.Proofs

/-! The frame codec (41_frame_codec.md R141 to R146): what `FRM.ENCODE` lays out, the one outcome of `FRM.DECODE`, verification
as exact comparison, and each as the other's inverse on sound frames. -/

namespace Sys2Proof.Proofs

open Sys2Proof Sys2Proof.Machine Sys2Proof.Laws

/-! ## Encoding -/

theorem exec_frmEncode_of_le {s : State} {payload : Bytes} (h : payload.length ≤ s.cfg.maxPayload)
    (source destination ackBit : Byte) :
    exec (.frmEncode source destination ackBit payload) s = .next
      { s with answer :=
          .encoded (frmEncode source destination ackBit payload) (makeFrame source destination ackBit payload) } :=
  if_pos h

/-- Settles O15: a length within u16 is its own length field, and the elements of the checksums are the bytes widened. -/
theorem frmEncodeLaysOutTheFrame : Obligations.FrmEncodeLaysOutTheFrame := by
  intro s source destination ackBit payload len hchk pchk hl hmax hlen hhdr hpay
  have hfield : (makeFrame source destination ackBit payload).payloadLength = len :=
    BitVec.eq_of_toNat_eq ((makeFrame_payloadLength source destination ackBit (hl.trans hmax)).trans hlen.symm)
  have hframe : makeFrame source destination ackBit payload = ⟨source, destination, ackBit, len, hchk, payload, pchk⟩ := by
    rw [hhdr, hpay, ← hfield]
    rfl
  rw [exec_frmEncode_of_le hl, frmEncode, hframe]
  rfl

/-- Settles O16: the guard of `FRM.ENCODE` fails, so one free value is used up. -/
theorem frmEncodeOverLongIsFree : Obligations.FrmEncodeOverLongIsFree :=
  fun _ _ _ _ _ h => if_neg (Nat.not_le_of_lt h)

/-! ## Decoding -/

theorem exec_frmDecode_of_error {s : State} {u : Bytes} {reason : LenReason} (h : frmDecode s.cfg u = .error reason) :
    exec (.frmDecode u) s = .next { s with answer := .invalid reason } := by
  simp only [exec, execFrmDecode, h, finish_eq]

theorem exec_frmDecode_of_ok {s : State} {u : Bytes} {f : DataFrame} (h : frmDecode s.cfg u = .ok f) :
    exec (.frmDecode u) s = .next { s with answer := .frame f } := by
  simp only [exec, execFrmDecode, h, finish_eq]

/-- Settles O17: below nine bytes, or by the unit's parts (`frmDecode_parts`). -/
theorem frmDecodeHasOneOutcomePerUnit : Obligations.FrmDecodeHasOneOutcomePerUnit := by
  refine ⟨fun s u h => exec_frmDecode_of_error (frmDecode_short s.cfg h), fun u h => exists_frame_parts h, ?parts⟩
  intro s b0 b1 b2 b3 b4 b5 b6 payload c0 c1
  have hd := frmDecode_parts s.cfg b0 b1 b2 b3 b4 b5 b6 payload c0 c1
  by_cases hmax : payload.length > s.cfg.maxPayload
  · rw [if_pos hmax] at hd ⊢
    exact exec_frmDecode_of_error hd
  · by_cases hlen : b3.toNat * 256 + b4.toNat ≠ payload.length
    · rw [if_neg hmax, if_pos hlen] at hd ⊢
      exact exec_frmDecode_of_error hd
    · rw [if_neg hmax, if_neg hlen] at hd ⊢
      exact exec_frmDecode_of_ok hd

/-! ## Verification -/

/-- Settles O18: the model's comparisons are these equalities, and `headerSum`, `payloadSum` and `ackSum` cover these values. -/
theorem verificationRecomputesAndCompares : Obligations.VerificationRecomputesAndCompares :=
  ⟨fun _ _ => rfl, fun _ _ => rfl, fun _ _ => rfl⟩

/-! ## Round trip -/

/-- Settles O19: a made frame's length field fits, so its unit decodes to it; and a verified frame that fits is the made one. -/
theorem frameRoundTrip : Obligations.FrameRoundTrip := by
  refine ⟨fun c source destination ackBit payload hl hmax => ?made, fun c u f hd hhdr hpay => ?sound⟩
  case made =>
    have hlen := makeFrame_payloadLength source destination ackBit (hl.trans hmax)
    obtain ⟨hhdr, hpay⟩ := frmVerify_makeFrame source destination ackBit payload
    exact ⟨frmDecode_frameUnit c hlen hl, hhdr, hpay, rfl, rfl, rfl, rfl⟩
  case sound =>
    obtain ⟨rfl, hlen, -⟩ := frmDecode_ok hd
    have hmade := makeFrame_of_sound hlen hhdr hpay
    exact ⟨congrArg frameUnit hmade, hmade⟩

end Sys2Proof.Proofs

/-! The acknowledgement codec (42_ack_codec.md R161 to R164): what `ACK.ENCODE` lays out, the two outcomes of `ACK.DECODE`, the
round trip, and that an Ack with one byte altered does not verify. -/

namespace Sys2Proof.Proofs

open Sys2Proof Sys2Proof.Machine Sys2Proof.Laws

/-! ## Layout -/

theorem ackDecode_of_length {u : Bytes} (h : u.length = 5) : ackDecode u = some (ackFields u) :=
  if_neg (not_not_intro h)

theorem ackDecode_of_length_ne {u : Bytes} (h : u.length ≠ 5) : ackDecode u = none := if_pos h

theorem exec_ackDecode_of_some {u : Bytes} {a : AckRec} (h : ackDecode u = some a) (s : State) :
    exec (.ackDecode u) s = .next { s with answer := .ack a } := by
  simp only [exec, execAckDecode, h, finish_eq]

theorem exec_ackDecode_of_none {u : Bytes} (h : ackDecode u = none) (s : State) :
    exec (.ackDecode u) s = .next { s with answer := .notAckSize } := by
  simp only [exec, execAckDecode, h, finish_eq]

/-- Settles O20: `ACK.ENCODE` answers the unit of the made record, and the length alone decides what `ACK.DECODE` answers. -/
theorem ackCodecLaysOutTheAck : Obligations.AckCodecLaysOutTheAck := by
  refine ⟨fun s source destination number c hc => ?encode,
    fun s b0 b1 b2 b3 b4 => exec_ackDecode_of_some (ackDecode_of_length rfl) s,
    fun s u h => exec_ackDecode_of_none (ackDecode_of_length_ne h) s⟩
  case encode =>
    subst hc
    rfl

/-! ## Verification -/

theorem ackVerify_eq_false_iff {a : AckRec} :
    ackVerify a = false ↔ a.checksum ≠ ackSum a.source a.destination a.number :=
  beq_eq_false_iff_ne

/-- The checksum is a sum, so it does not see the order of source and destination. -/
theorem ackSum_swap (source destination number : Byte) :
    ackSum destination source number = ackSum source destination number := by
  apply BitVec.eq_of_toNat_eq
  rw [ackSum_toNat, ackSum_toNat, Nat.add_comm destination.toNat]

/-- Another value in one byte of a verified Ack is detected: a covered byte changes the sum, a checksum byte the field it is
compared with. -/
theorem exists_unverified_ackUnit_of_byte_ne {a : AckRec} {pre post : Bytes} {b b' : Byte} (ha : ackVerify a = true)
    (hu : ackUnit a = pre ++ b :: post) (hb : b' ≠ b) : ∃ a', pre ++ b' :: post = ackUnit a' ∧ ackVerify a' = false := by
  have hsum : a.checksum = ackSum a.source a.destination a.number := beq_iff_eq.mp ha
  simp only [ackVerify_eq_false_iff]
  match pre, hu with
  | [], hu =>
    cases hu
    exact ⟨{ a with source := b' }, rfl, fun h => chkSum_ne_of_element_ne [] _ hb (h.symm.trans hsum)⟩
  | [_], hu =>
    cases hu
    exact ⟨{ a with destination := b' }, rfl,
      fun h => chkSum_ne_of_element_ne [element a.source] _ hb (h.symm.trans hsum)⟩
  | [_, _], hu =>
    cases hu
    exact ⟨{ a with number := b' }, rfl,
      fun h => chkSum_ne_of_element_ne [element a.source, element a.destination] _ hb (h.symm.trans hsum)⟩
  | [_, _, _], hu =>
    cases hu
    exact ⟨{ a with checksum := be16 b' (lo8 a.checksum) }, by simp [ackUnit, hi8_be16, lo8_be16],
      fun h => be16_ne_of_hi8_ne hb (h.trans hsum.symm)⟩
  | [_, _, _, _], hu =>
    cases hu
    exact ⟨{ a with checksum := be16 (hi8 a.checksum) b' }, by simp [ackUnit, hi8_be16, lo8_be16],
      fun h => be16_ne_of_lo8_ne hb (h.trans hsum.symm)⟩
  | _ :: _ :: _ :: _ :: _ :: _, hu => simp [ackUnit] at hu

/-- Settles O21: a flipped bit is an altered byte, and the sum of the covered values is commutative. -/
theorem ackRoundTripAndSingleBitErrors : Obligations.AckRoundTripAndSingleBitErrors := by
  refine ⟨fun source destination number => ⟨ackDecode_ackUnit _, ackVerify_makeAck source destination number, rfl, rfl, rfl⟩,
    fun source destination number k hk => ?flip, fun a => ?swap⟩
  case flip =>
    have hlen : (ackEncode source destination number).length = 5 := ackUnit_length _
    have hbyte : k / 8 < (ackEncode source destination number).length := by omega
    obtain ⟨pre, b, post, hu, -, hflip⟩ := List.exists_of_modify (flipBitOfByte · (k % 8)) hbyte
    obtain ⟨a', hu', ha'⟩ := exists_unverified_ackUnit_of_byte_ne (ackVerify_makeAck source destination number) hu
      (flipBitOfByte_ne b (Nat.mod_lt k (by decide)))
    exact ⟨a', by rw [flipBit, hflip, hu', ackDecode_ackUnit], ha'⟩
  case swap =>
    rw [ackVerify, ackVerify, ackSum_swap]

end Sys2Proof.Proofs

/-! The byte transport (43_byte_transport.md R171 to R178): the cases of a wire byte for `BT.RECV` and for the Receiver, the
terminator's step, and that the stuffed bytes of a unit, taken one by one, are the unit's handling. -/

namespace Sys2Proof.Proofs

open Sys2Proof Sys2Proof.Machine Sys2Proof.Laws

/-! ## Stuffing -/

theorem length_flatMap_stuffByte (u : Bytes) :
    (u.flatMap stuffByte).length = u.length + (u.filter fun b => b = Config.flag ∨ b = Config.esc).length := by
  induction u with
  | nil => rfl
  | cons b u ih =>
    by_cases hb : b = Config.flag ∨ b = Config.esc
    · have hstuff : stuffByte b = [Config.esc, b] := if_pos hb
      rw [List.flatMap_cons, hstuff, List.filter_cons_of_pos (by simpa using hb)]
      simp only [List.length_append, List.length_cons, List.length_nil, ih]
      omega
    · have hstuff : stuffByte b = [b] := if_neg hb
      rw [List.flatMap_cons, hstuff, List.filter_cons_of_neg (by simpa using hb)]
      simp only [List.length_append, List.length_cons, List.length_nil, ih]
      omega

/-- Settles O23: an escaped byte is two bytes on the stream, every other byte one, and the terminator one more. -/
theorem btSendStuffsAndTerminates : Obligations.BtSendStuffsAndTerminates := by
  refine fun s u => ⟨btSend u, rfl, rfl, ?length⟩
  case length =>
    rw [btSend, List.length_append, length_flatMap_stuffByte]
    rfl

/-! ## The four cases of a wire byte (R173 to R176) -/

/-- The case of a byte under `rx_esc` (R172): escaped, or by the byte alone. -/
theorem wireByte_cases (escaped : Bool) (b : Byte) :
    escaped = true ∨ (escaped = false ∧ b = Config.flag) ∨ (escaped = false ∧ b = Config.esc) ∨
      (escaped = false ∧ b ≠ Config.flag ∧ b ≠ Config.esc) := by
  cases escaped
  · by_cases hflag : b = Config.flag
    · exact .inr (.inl ⟨rfl, hflag⟩)
    · by_cases hesc : b = Config.esc
      · exact .inr (.inr (.inl ⟨rfl, hesc⟩))
      · exact .inr (.inr (.inr ⟨rfl, hflag, hesc⟩))
  · exact .inl rfl

theorem decodeWire_escaped (b : Byte) : decodeWire true b = .wEscaped b := rfl

theorem decodeWire_flag : decodeWire false Config.flag = .wFlag := rfl

theorem decodeWire_esc : decodeWire false Config.esc = .wEsc := rfl

theorem decodeWire_literal {b : Byte} (hflag : b ≠ Config.flag) (hesc : b ≠ Config.esc) :
    decodeWire false b = .wLiteral b := by
  simp [decodeWire, hflag, hesc]

theorem btRecvFrom_nil (buf : Bytes) (escaped : Bool) : btRecvFrom buf escaped [] = none := rfl

theorem btRecvFrom_escaped (buf : Bytes) (b : Byte) (rest : Bytes) :
    btRecvFrom buf true (b :: rest) = btRecvFrom (buf ++ [b]) false rest := rfl

theorem btRecvFrom_flag (buf rest : Bytes) : btRecvFrom buf false (Config.flag :: rest) = some (buf, rest) := rfl

theorem btRecvFrom_esc (buf rest : Bytes) : btRecvFrom buf false (Config.esc :: rest) = btRecvFrom buf true rest := rfl

theorem btRecvFrom_literal (buf rest : Bytes) {b : Byte} (hflag : b ≠ Config.flag) (hesc : b ≠ Config.esc) :
    btRecvFrom buf false (b :: rest) = btRecvFrom (buf ++ [b]) false rest := by
  simp [btRecvFrom, hflag, hesc]

/-! ## The wire classes and `BT.RXBYTE` -/

theorem exec_wEscaped {s : State} {b : Byte} {rest : Bytes} (hs : s.rxStream = b :: rest) (he : s.rxEsc = true) :
    exec (.wEscaped b) s =
      .next { s with rxStream := rest, rxBuf := s.rxBuf ++ [b], rxEsc := false, answer := .void } :=
  (if_pos he).trans (withByte_cons hs _)

theorem exec_wEscaped_hold {s : State} (he : s.rxEsc = false) (b : Byte) :
    exec (.wEscaped b) s = .next { s with answer := .held } :=
  if_neg (by simp [he])

theorem exec_wEsc {s : State} {rest : Bytes} (hs : s.rxStream = Config.esc :: rest) (he : s.rxEsc = false) :
    exec .wEsc s = .next { s with rxStream := rest, rxEsc := true, answer := .void } :=
  (if_neg (by simp [he])).trans (withByte_cons hs _)

theorem exec_wEsc_hold {s : State} (he : s.rxEsc = true) : exec .wEsc s = .next { s with answer := .held } := if_pos he

theorem exec_wLiteral {s : State} {b : Byte} {rest : Bytes} (hs : s.rxStream = b :: rest) (he : s.rxEsc = false)
    (hflag : b ≠ Config.flag) (hesc : b ≠ Config.esc) :
    exec (.wLiteral b) s = .next { s with rxStream := rest, rxBuf := s.rxBuf ++ [b], answer := .void } :=
  (if_neg (by simp [he, hflag, hesc])).trans (withByte_cons hs _)

theorem exec_wLiteral_hold {s : State} (he : s.rxEsc = true) (b : Byte) :
    exec (.wLiteral b) s = .next { s with answer := .held } :=
  if_pos (.inl he)

theorem exec_wFlag_hold {s : State} (he : s.rxEsc = true) : exec .wFlag s = .next { s with answer := .held } := if_pos he

/-- R172: the byte and `rx_esc` choose the class, before `rx_stream` is looked at. -/
theorem exec_btRxbyte (b : Byte) (s : State) : exec (.btRxbyte b) s = exec (decodeWire s.rxEsc b) s := by
  rcases wireByte_cases s.rxEsc b with he | ⟨he, rfl⟩ | ⟨he, rfl⟩ | ⟨he, hflag, hesc⟩
  · rw [he, decodeWire_escaped]
    simp [exec, execBtRxbyte, execWEscaped, he]
  · rw [he, decodeWire_flag]
    exact execBtRxbyte_flag he
  · rw [he, decodeWire_esc]
    have hne : Config.esc ≠ Config.flag := by decide
    simp [exec, execBtRxbyte, execWEsc, he, hne]
  · rw [he, decodeWire_literal hflag hesc]
    simp [exec, execBtRxbyte, execWLiteral, he, hflag, hesc]

theorem exec_btRxbyte_escaped {s : State} (he : s.rxEsc = true) (b : Byte) :
    exec (.btRxbyte b) s = exec (.wEscaped b) s := by
  rw [exec_btRxbyte, he, decodeWire_escaped]

theorem exec_btRxbyte_flag {s : State} (he : s.rxEsc = false) : exec (.btRxbyte Config.flag) s = flagStep s :=
  execBtRxbyte_flag he

theorem exec_btRxbyte_esc {s : State} (he : s.rxEsc = false) : exec (.btRxbyte Config.esc) s = exec .wEsc s := by
  rw [exec_btRxbyte, he, decodeWire_esc]

theorem exec_btRxbyte_literal {s : State} (he : s.rxEsc = false) {b : Byte} (hflag : b ≠ Config.flag)
    (hesc : b ≠ Config.esc) : exec (.btRxbyte b) s = exec (.wLiteral b) s := by
  rw [exec_btRxbyte, he, decodeWire_literal hflag hesc]

theorem withByte_hold {s : State} {b : Byte} (h : ∀ rest, s.rxStream ≠ b :: rest) (k : Bytes → Result) :
    withByte s b k = .next { s with answer := .held } := by
  rcases withByte_cases s b k with ⟨rest, hs, -⟩ | ⟨-, hheld⟩
  · exact absurd hs (h rest)
  · exact hheld

/-- A byte that is not next on `rx_stream` waits (R36). -/
theorem exec_btRxbyte_hold {s : State} {b : Byte} (h : ∀ rest, s.rxStream ≠ b :: rest) :
    exec (.btRxbyte b) s = .next { s with answer := .held } :=
  withByte_hold h _

/-- Settles O27: `decodeWire` names the case, and the guards of the classes exclude each other. -/
theorem rxByteIsOneOfFourCases : Obligations.RxByteIsOneOfFourCases :=
  ⟨fun s b => exec_btRxbyte b s,
    fun b => ⟨decodeWire_escaped b, decodeWire_flag, decodeWire_esc, decodeWire_literal⟩,
    fun _ he => ⟨exec_wFlag_hold he, exec_wEsc_hold he, exec_wLiteral_hold he⟩,
    fun _ b he => exec_wEscaped_hold he b,
    fun _ _ => exec_btRxbyte_hold⟩

/-- Settles O25: `BT.RXBYTE` is the wire class of its byte, and each class is one record update. -/
theorem literalsAndEscapesAreUnstuffed : Obligations.LiteralsAndEscapesAreUnstuffed := by
  refine ⟨?escaped, ?escape, ?literal⟩
  case escaped =>
    rintro s b rest hs he i (rfl | rfl)
    · exact (exec_btRxbyte_escaped he b).trans (exec_wEscaped hs he)
    · exact exec_wEscaped hs he
  case escape =>
    rintro s rest hs he i (rfl | rfl)
    · exact (exec_btRxbyte_esc he).trans (exec_wEsc hs he)
    · exact exec_wEsc hs he
  case literal =>
    rintro s b rest hs he hflag hesc i (rfl | rfl)
    · exact (exec_btRxbyte_literal he hflag hesc).trans (exec_wLiteral hs he hflag hesc)
    · exact exec_wLiteral hs he hflag hesc

/-! ## The terminator (R175) -/

/-- An outcome writes none of the Receiver's own registers. -/
theorem applyVerdict_receiver (s : State) (u : Bytes) (v : Verdict) :
    (applyVerdict s u v).rxStream = s.rxStream ∧ (applyVerdict s u v).rxBuf = s.rxBuf ∧
      (applyVerdict s u v).rxEsc = s.rxEsc := by
  rw [applyVerdict_frame]
  exact ⟨rfl, rfl, rfl⟩

theorem unitStep_of_held {s : State} {u rest : Bytes} (h : Completes s u rest)
    (hv : verdictHeld s (classify s u) = true) : unitStep s u = .next { s with answer := .held } := by
  rw [unitStep_eq h, hv]
  rfl

/-- Settles O26: each of the three names is the step of the `FLAG`, which `unitStep_eq` gives; while it is held, no other byte is
next. -/
theorem terminatorHandlesTheUnit : Obligations.TerminatorHandlesTheUnit := by
  intro s u rest hs he hbuf
  have hc : Completes s u rest := ⟨hs, he, hbuf⟩
  have hflag : flagStep s = unitStep s u := (unitStep_of_completes hc).symm
  refine ⟨fun hv => ?taken, fun hv => ?held⟩
  case taken =>
    have hstep := unitStep_of_not_held hc hv
    obtain ⟨hstream, hempty, hesc⟩ :=
      applyVerdict_receiver { s with rxStream := rest, rxBuf := [] } u (classify s u)
    refine ⟨_, rfl, hstream, hempty, hesc.trans he, ?_⟩
    rintro i (rfl | rfl | rfl)
    · exact (exec_btRxbyte_flag he).trans (hflag.trans hstep)
    · exact hflag.trans hstep
    · exact hstep
  case held =>
    have hstep := unitStep_of_held hc hv
    refine ⟨hflag.trans hstep, hstep, fun b => ?_⟩
    by_cases hb : b = Config.flag
    · subst hb
      exact (exec_btRxbyte_flag he).trans (hflag.trans hstep)
    · exact exec_btRxbyte_hold fun tail h => hb (List.cons.inj (h.symm.trans hs)).1

/-! ## A unit byte by byte (R177, R178) -/

theorem exec_btRecv_of_none {input : Bytes} (h : btRecvFrom [] false input = none) (s : State) :
    exec (.btRecv input) s = .next { s with answer := .held } := by
  simp only [exec, execBtRecv, btRecv, h, hold_eq]

theorem exec_btRecv_of_some {input u rest : Bytes} (h : btRecvFrom [] false input = some (u, rest)) (s : State) :
    exec (.btRecv input) s = .next { s with answer := .bytes u } := by
  simp only [exec, execBtRecv, btRecv, h, finish_eq]

theorem btRecvFrom_btSend (u rest : Bytes) : btRecvFrom [] false (btSend u ++ rest) = some (u, rest) := by
  rw [btSend, List.append_assoc, btRecvFrom_stuffed, List.nil_append]
  exact btRecvFrom_flag u rest

/-- The terminator at least is consumed. -/
theorem length_lt_of_btRecvFrom {buf input u rest : Bytes} {escaped : Bool}
    (h : btRecvFrom buf escaped input = some (u, rest)) : rest.length < input.length := by
  induction input generalizing buf escaped with
  | nil => cases h
  | cons b input ih =>
    rcases wireByte_cases escaped b with rfl | ⟨rfl, rfl⟩ | ⟨rfl, rfl⟩ | ⟨rfl, hflag, hesc⟩
    · rw [btRecvFrom_escaped] at h
      exact Nat.lt_succ_of_lt (ih h)
    · cases h
      exact Nat.lt_succ_self _
    · rw [btRecvFrom_esc] at h
      exact Nat.lt_succ_of_lt (ih h)
    · rw [btRecvFrom_literal _ _ hflag hesc] at h
      exact Nat.lt_succ_of_lt (ih h)

theorem receiveAll_cons {b : Byte} {bytes : Bytes} {s t : State} (h : exec (.btRxbyte b) s = .next t) :
    receiveAll (b :: bytes) s = receiveAll bytes t := by
  simp only [receiveAll, List.map_cons, execAll, h]

theorem receiveAll_singleton (b : Byte) (s : State) : receiveAll [b] s = exec (.btRxbyte b) s := by
  simp only [receiveAll, List.map_cons, List.map_nil, execAll]
  cases exec (.btRxbyte b) s <;> rfl

theorem acknowledge_withAnswer (s : State) (a : Answer) (f : DataFrame) :
    State.acknowledge { s with answer := a } f = { s.acknowledge f with answer := a } := by
  have hunicast : unicast { s with answer := a } f = unicast s f := rfl
  rw [State.acknowledge, State.acknowledge, hunicast]
  split <;> rfl

/-- The effect of an outcome does not depend on what the last operation answered. -/
theorem applyVerdict_answer (s : State) (a : Answer) (u : Bytes) (v : Verdict) :
    applyVerdict { s with answer := a } u v = { applyVerdict s u v with answer := a } := by
  cases v
  case frameDup f => exact acknowledge_withAnswer (s.emit .dupFrame (.header (headerOf f))) a f
  case frameNew f => exact acknowledge_withAnswer ((s.recordSeen f.source f.ackBit).enqIngress f) a f
  all_goals rfl

theorem unitStep_answer {s : State} {u rest : Bytes} (h : Completes s u rest) (a : Answer) :
    unitStep { s with answer := a } u = unitStep s u := by
  have hc : Completes { s with answer := a } u rest := h
  have hclass : classify { s with answer := a } u = classify s u := rfl
  have hheld : verdictHeld { s with answer := a } (classify s u) = verdictHeld s (classify s u) := by
    cases classify s u <;> rfl
  rw [unitStep_eq h, unitStep_eq hc, hclass, hheld,
    applyVerdict_answer { s with rxStream := rest, rxBuf := [] } a]

/-- The state in which the bytes of the unit `u` are consumed but for its terminator, which is next. -/
abbrev atTerminator (s : State) (u rest : Bytes) : State :=
  { s with rxStream := Config.flag :: rest, rxBuf := u, rxEsc := false }

theorem completes_atTerminator (s : State) (u rest : Bytes) : Completes (atTerminator s u rest) u rest := ⟨rfl, rfl, rfl⟩

theorem atTerminator_of_completes {s : State} {u rest : Bytes} (h : Completes s u rest) : atTerminator s u rest = s := by
  obtain ⟨hs, he, rfl⟩ := h
  rw [atTerminator, ← hs, ← he]

/-- From any state of the unstuffer: the bytes that `BT.RECV` reads as the unit `u`, consumed one by one, are the step of `u`.
Before its terminator they write `rx_buf`, `rx_esc` and the answer, and the last is written again. -/
theorem receiveAll_eq_unitStep {s : State} {consumed u rest : Bytes} (hs : s.rxStream = consumed ++ rest)
    (h : btRecvFrom s.rxBuf s.rxEsc (consumed ++ rest) = some (u, rest)) :
    receiveAll consumed s = unitStep (atTerminator s u rest) u := by
  induction consumed generalizing s with
  | nil => exact absurd (length_lt_of_btRecvFrom h) (Nat.lt_irrefl _)
  | cons b bytes ih =>
    have hanswer := unitStep_answer (completes_atTerminator s u rest) .void
    rw [List.cons_append] at hs h
    rcases wireByte_cases s.rxEsc b with he | ⟨he, rfl⟩ | ⟨he, rfl⟩ | ⟨he, hflag, hesc⟩ <;> rw [he] at h
    · rw [receiveAll_cons ((exec_btRxbyte_escaped he b).trans (exec_wEscaped hs he)), ← hanswer]
      exact ih rfl h
    · rw [btRecvFrom_flag] at h
      obtain ⟨hbuf, hrest⟩ := Prod.mk.inj (Option.some.inj h)
      obtain rfl : bytes = [] := List.append_left_eq_self.mp hrest
      have hc : Completes s u rest := ⟨hs, he, hbuf⟩
      rw [receiveAll_singleton, exec_btRxbyte_flag he, atTerminator_of_completes hc, unitStep_of_completes hc]
    · rw [receiveAll_cons ((exec_btRxbyte_esc he).trans (exec_wEsc hs he)), ← hanswer]
      exact ih rfl h
    · rw [btRecvFrom_literal _ _ hflag hesc] at h
      rw [receiveAll_cons ((exec_btRxbyte_literal he hflag hesc).trans (exec_wLiteral hs he hflag hesc)), ← hanswer]
      exact ih rfl (he ▸ h)

/-- The same from between two units. -/
theorem receiveAll_eq_exec_rxUnit {s : State} {consumed u rest : Bytes}
    (h : btRecvFrom [] false (consumed ++ rest) = some (u, rest)) (hs : s.rxStream = consumed ++ rest)
    (hbuf : s.rxBuf = []) (he : s.rxEsc = false) :
    receiveAll consumed s = exec (.rxUnit u) { s with rxStream := 0x7E :: rest, rxBuf := u } := by
  rw [receiveAll_eq_unitStep hs (by rw [hbuf, he]; exact h), atTerminator, ← he]
  rfl

/-- Settles O24: the reading's four cases are `btRecvFrom`'s, `receiveAll_eq_exec_rxUnit` links it to the Receiver, and
`btRecvFrom_stuffed` to `BT.SEND`. -/
theorem btRecvUndoesBtSend : Obligations.BtRecvUndoesBtSend := by
  refine ⟨fun s _ h => exec_btRecv_of_none h s, fun s _ _ _ h => exec_btRecv_of_some h s, fun buf rest escaped => ?cases,
    fun _ _ _ _ => receiveAll_eq_exec_rxUnit, btRecvFrom_btSend, fun u => ⟨?plain, ?escape⟩, by decide⟩
  case cases =>
    exact ⟨btRecvFrom_nil buf escaped, fun b => btRecvFrom_escaped buf b rest, btRecvFrom_esc buf rest,
      btRecvFrom_flag buf rest, fun _ => btRecvFrom_literal buf rest⟩
  case plain =>
    have h := btRecvFrom_stuffed u [] []
    rwa [List.append_nil] at h
  case escape => exact btRecvFrom_stuffed u [] [0x7D]

/-- Settles O28: `BT.SEND u` reads as `u`, so its bytes are the step of `u` with the terminator next, taken or held. -/
theorem framingDeliversTheUnit : Obligations.FramingDeliversTheUnit := by
  intro s u rest hs hbuf he
  have hall := receiveAll_eq_exec_rxUnit (btRecvFrom_btSend u rest) hs hbuf he
  have hc : Completes { s with rxStream := 0x7E :: rest, rxBuf := u } u rest := ⟨rfl, he, rfl⟩
  refine ⟨hall, fun hv => ?taken, fun hv => ?held⟩
  case taken =>
    obtain ⟨hstream, hempty, hesc⟩ :=
      applyVerdict_receiver { s with rxStream := rest, rxBuf := [] } u (classify s u)
    exact ⟨_, hall.trans (unitStep_of_not_held hc ((verdictHeld_unstuffer s _ u _).trans hv)), hstream, hempty,
      hesc.trans he, rfl⟩
  case held => exact hall.trans (unitStep_of_held hc ((verdictHeld_unstuffer s _ u _).trans hv))

end Sys2Proof.Proofs

/-! The Transmitter (44_transmitter.md R190 to R205): a step whose guard holds is taken and every other one waits; what that says
of `tx_state`, of the pending Acks and of a frame that is never acknowledged; and one frame between two cards. -/

namespace Sys2Proof.Proofs

open Sys2Proof Sys2Proof.Machine Sys2Proof.Laws

/-! ## The conditions of the guards (R195) -/

theorem genuine_iff {s : State} {f : DataFrame} {e : AckRec} : genuine s f e = true ↔
    e.destination = s.cfg.deviceId ∧ e.source = f.destination ∧ e.number = s.nextAckToSend := by
  simp only [genuine, awaited, Bool.and_eq_true, beq_iff_eq, and_assoc]

theorem stale_iff {s : State} {f : DataFrame} {e : AckRec} : stale s f e = true ↔
    e.destination = s.cfg.deviceId ∧ e.source = f.destination ∧ e.number ≠ s.nextAckToSend := by
  simp only [stale, awaited, Bool.and_eq_true, beq_iff_eq, bne_iff_ne, and_assoc]

theorem expired_iff {s : State} {t : Nat} : expired s t = true ↔ s.now - t ≥ s.cfg.timeoutTicks := decide_eq_true_iff

theorem genuinePending_eq_false_iff {s : State} {f : DataFrame} : genuinePending s f = false ↔ ∀ e ∈ s.pendingAcks,
    ¬(e.destination = s.cfg.deviceId ∧ e.source = f.destination ∧ e.number = s.nextAckToSend) := by
  simp only [genuinePending, List.any_eq_false, genuine_iff]

/-! ## A step is taken, or waits

`tx_effect` lists all that a Transmitter step can do. Here: each of its effects takes place where its guard holds, and where no
guard holds the step waits. -/

theorem exec_of_transmitterEffect {i : Instr} {s t : State} (h : TransmitterEffect s i t) (ht : t.answer = .void) :
    exec i s = .next t := by
  cases h with
  | held => cases ht
  | deqAck _ _ _ _ hs hq => simp [exec, execTxDeqAck, sendAck, State.deqEgress, State.transmit, finish_eq, hs, hq]
  | deqFrame _ _ hs hq hd =>
    simp [exec, execTxDeqFrame, State.deqEgress, State.transmit, State.setTx, finish_eq, hs, hq, hd]
  | deqBcast _ _ hs hq hd => simp [exec, execTxDeqBcast, State.deqEgress, State.transmit, finish_eq, hs, hq, hd]
  | bypassAck _ _ _ _ _ _ _ hs hq =>
    simp [exec, execTxBypassAck, sendAck, State.deqEgress, State.transmit, finish_eq, hs, hq]
  | ackMatch _ _ _ _ hs he hg => simp [exec, execTxAckMatch, State.removeAck, State.setTx, finish_eq, hs, he, hg]
  | ackStale _ _ _ _ hs he hg => simp [exec, execTxAckStale, State.removeAck, State.emit, finish_eq, hs, he, hg]
  | resend _ _ _ hs hx ha hg =>
    simp [exec, execTxResend, State.transmit, State.emit, State.setTx, finish_eq, hs, hx, ha, hg]
  | abandon _ _ _ hs hx ha hg => simp [exec, execTxAbandon, State.emit, State.setTx, finish_eq, hs, hx, ha, hg]

theorem agentOf_of_transmitterEffect {i : Instr} {s t : State} (h : TransmitterEffect s i t) (ht : t.answer = .void) :
    agentOf i = some .tx := by
  cases h with
  | held => cases ht
  | _ => rfl

theorem exec_tx_next {i : Instr} (hi : agentOf i = some .tx) (s : State) : ∃ t, exec i s = .next t := by
  cases i <;> cases hi <;>
    simp only [exec, execTxDeqAck, execTxDeqFrame, execTxDeqBcast, execTxBypassAck, execTxAckMatch, execTxAckStale,
      execTxResend, execTxAbandon]
  case txDeqAck | txBypassAck => split <;> exact ⟨_, rfl⟩
  all_goals
    split
    · split <;> exact ⟨_, rfl⟩
    · exact ⟨_, rfl⟩

theorem exec_tx_waits {i : Instr} {s : State} (hi : agentOf i = some .tx)
    (hw : ∀ t, TransmitterEffect s i t → t = { s with answer := .held }) : exec i s = .next { s with answer := .held } := by
  obtain ⟨t, h⟩ := exec_tx_next hi s
  rw [h, hw t (tx_effect hi h)]

/-- Settles O36: of the effects that are an operation's own, one at most besides the wait, and its guard is the one negated. -/
theorem transmitterWaitsOutsideItsGuards : Obligations.TransmitterWaitsOutsideItsGuards := by
  refine ⟨fun s hg => exec_tx_waits rfl fun t ht => ?deqAck, fun s hg => exec_tx_waits rfl fun t ht => ?deqFrame,
    fun s hg => exec_tx_waits rfl fun t ht => ?deqBcast, fun s hg => exec_tx_waits rfl fun t ht => ?bypassAck,
    fun s e hg => exec_tx_waits rfl fun t ht => ?ackMatch, fun s e hg => exec_tx_waits rfl fun t ht => ?ackStale,
    fun s hg => exec_tx_waits rfl fun t ht => ?resend, fun s hg => exec_tx_waits rfl fun t ht => ?abandon⟩
  case deqAck =>
    cases ht with
    | held => rfl
    | deqAck source destination number rest hs hq => exact absurd ⟨source, destination, number, rest, hs, hq⟩ hg
  case deqFrame =>
    cases ht with
    | held => rfl
    | deqFrame r rest hs hq hd => exact absurd ⟨r, rest, hs, hq, hd⟩ hg
  case deqBcast =>
    cases ht with
    | held => rfl
    | deqBcast r rest hs hq hd => exact absurd ⟨r, rest, hs, hq, hd⟩ hg
  case bypassAck =>
    cases ht with
    | held => rfl
    | bypassAck f t a source destination number rest hs hq =>
      exact absurd ⟨f, t, a, source, destination, number, rest, hs, hq⟩ hg
  case ackMatch =>
    cases ht with
    | held => rfl
    | ackMatch f t a _ hs he hgen => exact absurd ⟨f, t, a, hs, he, genuine_iff.mp hgen⟩ hg
  case ackStale =>
    cases ht with
    | held => rfl
    | ackStale f t a _ hs he hst => exact absurd ⟨f, t, a, hs, he, stale_iff.mp hst⟩ hg
  case resend =>
    cases ht with
    | held => rfl
    | resend f t a hs hx ha hn => exact absurd ⟨f, t, a, hs, expired_iff.mp hx, ha, genuinePending_eq_false_iff.mp hn⟩ hg
  case abandon =>
    cases ht with
    | held => rfl
    | abandon f t a hs hx ha hn => exact absurd ⟨f, t, a, hs, expired_iff.mp hx, ha, genuinePending_eq_false_iff.mp hn⟩ hg

/-! ## The effects, one by one -/

/-- Settles O29: the effects `deqAck` and `bypassAck`; with data at the head the guard of `TX.BYPASS_ACK` fails. -/
theorem outboundAcksAreTransmitted : Obligations.OutboundAcksAreTransmitted := by
  refine ⟨fun s source destination number rest hs hq => ?idle, fun s f t a source destination number rest hs hq => ?awaiting,
    fun s r rest hq => exec_tx_waits rfl fun t ht => ?behind⟩
  case idle => exact exec_of_transmitterEffect (.deqAck source destination number rest hs hq) rfl
  case awaiting => exact exec_of_transmitterEffect (.bypassAck f t a source destination number rest hs hq) rfl
  case behind =>
    cases ht with
    | held => rfl
    | bypassAck _ _ _ _ _ _ _ _ hack => cases hq.symm.trans hack

/-- Settles O30: the effect `deqFrame`; the stamped frame is the one `FRM.ENCODE` makes. -/
theorem unicastFrameIsSentAndAwaited : Obligations.UnicastFrameIsSentAndAwaited :=
  fun _ r rest hs hq hd => exec_of_transmitterEffect (.deqFrame r rest hs hq hd) rfl

/-- Settles O31: the effect `deqBcast`, the destination being the broadcast address. -/
theorem broadcastIsSentWithoutWaiting : Obligations.BroadcastIsSentWithoutWaiting := by
  intro s r rest hs hq hd
  rw [← hd]
  exact exec_of_transmitterEffect (.deqBcast r rest hs hq hd) rfl

/-- The two registers that only the Transmitter writes, but for `RESET`. -/
theorem txState_eq_of_agentOf_ne {i : Instr} {s t : State} (h : exec i s = .next t) (hi : agentOf i ≠ some .tx)
    (hr : ∀ c, i ≠ .reset c) : t.txState = s.txState ∧ t.nextAckToSend = s.nextAckToSend := by
  rcases agent_cases i with hj | hj | hj | hj | hj
  · rw [pure_frame h hj]; exact ⟨rfl, rfl⟩
  · rw [(host_frame h hj).1]; exact ⟨rfl, rfl⟩
  · exact absurd hj hi
  · rw [(rx_frame h hj).1]; exact ⟨rfl, rfl⟩
  · rw [env_frame h hj hr]; exact ⟨rfl, rfl⟩

/-- Settles O32: the effect `ackMatch`, and no other effect of the Transmitter, nor another agent, writes the bit. -/
theorem genuineAckEndsTheWait : Obligations.GenuineAckEndsTheWait := by
  refine ⟨fun s f t a e hs he hd hp hn => ?taken, fun i s t h hbit => ?only⟩
  case taken => exact exec_of_transmitterEffect (.ackMatch f t a e hs he (genuine_iff.mpr ⟨hd, hp, hn⟩)) rfl
  case only =>
    by_cases hr : ∃ c, i = .reset c
    · exact .inr hr
    have hi : agentOf i = some .tx := by
      by_contra hi
      exact hbit (txState_eq_of_agentOf_ne h hi (not_exists.mp hr)).2
    cases tx_effect hi h with
    | ackMatch _ _ _ e => exact .inl ⟨e, rfl⟩
    | _ => exact absurd rfl hbit

/-- Settles O33: the effect `ackStale`. -/
theorem staleAckIsDiscarded : Obligations.StaleAckIsDiscarded :=
  fun _ f t a e hs he hd hp hn => exec_of_transmitterEffect (.ackStale f t a e hs he (stale_iff.mpr ⟨hd, hp, hn⟩)) rfl

/-- Settles O34: the effect `resend`, the unit of the frame in flight being the one `FRM.ENCODE` made; with no attempt left its
guard fails. -/
theorem timeoutRetransmitsTheIdenticalFrame : Obligations.TimeoutRetransmitsTheIdenticalFrame := by
  refine ⟨fun s f t a hs hx ha hn hmade => ?taken, fun s f t a hs ha => exec_tx_waits rfl fun u hu => ?exhausted⟩
  case taken =>
    have hunit : frmEncode f.source f.destination f.ackBit f.payload = frameUnit f := congrArg frameUnit hmade.symm
    rw [hunit]
    exact exec_of_transmitterEffect
      (.resend f t a hs (expired_iff.mpr hx) ha (genuinePending_eq_false_iff.mpr hn)) rfl
  case exhausted =>
    cases hu with
    | held => rfl
    | resend f' t' a' hs' _ ha' =>
      cases hs.symm.trans hs'
      exact absurd ha' (Nat.not_lt.mpr ha)

/-- Settles O35: the effect `abandon`. -/
theorem exhaustedFrameIsAbandoned : Obligations.ExhaustedFrameIsAbandoned :=
  fun _ f t a hs hx ha hn => exec_of_transmitterEffect
    (.abandon f t a hs (expired_iff.mpr hx) ha (genuinePending_eq_false_iff.mpr hn)) rfl

/-! ## The state machine (R190) -/

/-- The rows of the table that change `tx_state`, and `RESET`. -/
theorem txState_change_cases {i : Instr} {s t : State} (h : exec i s = .next t) (htx : t.txState ≠ s.txState) :
    (∃ f, i = .txDeqFrame ∧ s.txState = .idle ∧ t.txState = .awaitingAck f s.now 0) ∨
    (∃ e f t₀ a, i = .txAckMatch e ∧ s.txState = .awaitingAck f t₀ a ∧ t.txState = .idle) ∨
    (∃ f t₀ a, i = .txResend ∧ s.txState = .awaitingAck f t₀ a ∧ a < s.cfg.maxResend ∧
      t.txState = .awaitingAck f s.now (a + 1)) ∨
    (∃ f t₀ a, i = .txAbandon ∧ s.txState = .awaitingAck f t₀ a ∧ a = s.cfg.maxResend ∧ t.txState = .idle) ∨
    (∃ c, i = .reset c ∧ t.txState = .idle) := by
  by_cases hr : ∃ c, i = .reset c
  · obtain ⟨c, rfl⟩ := hr
    rcases env_effect rfl h with ⟨hi, -⟩ | ⟨_, -, ⟨-, rfl⟩ | ⟨-, rfl⟩⟩
    · cases hi
    · exact absurd rfl htx
    · exact .inr (.inr (.inr (.inr ⟨c, rfl, rfl⟩)))
  have hi : agentOf i = some .tx := by
    by_contra hi
    exact htx (txState_eq_of_agentOf_ne h hi (not_exists.mp hr)).1
  cases tx_effect hi h with
  | held | deqAck | deqBcast | bypassAck | ackStale => exact absurd rfl htx
  | deqFrame r _ hs => exact .inl ⟨stamp s r, rfl, hs, rfl⟩
  | ackMatch f t₀ a e hs => exact .inr (.inl ⟨e, f, t₀, a, rfl, hs, rfl⟩)
  | resend f t₀ a hs _ ha => exact .inr (.inr (.inl ⟨f, t₀, a, rfl, hs, ha, rfl⟩))
  | abandon f t₀ a hs _ ha => exact .inr (.inr (.inr (.inl ⟨f, t₀, a, rfl, hs, ha, rfl⟩)))

theorem exec_tx_waits_of_idle_of_empty {i : Instr} {s : State} (hi : agentOf i = some .tx) (hidle : s.txState = .idle)
    (hempty : s.egress = []) : exec i s = .next { s with answer := .held } := by
  refine exec_tx_waits hi fun t ht => ?_
  cases ht with
  | held => rfl
  | deqAck _ _ _ _ _ hq | deqFrame _ _ _ hq | deqBcast _ _ _ hq => cases hempty.symm.trans hq
  | bypassAck _ _ _ _ _ _ _ hs | ackMatch _ _ _ _ hs | ackStale _ _ _ _ hs | resend _ _ _ hs | abandon _ _ _ hs =>
    cases hidle.symm.trans hs

/-- Settles O37: the rows that change `tx_state`; each row from its effect, the wait having another answer; and `Idle` with
nothing queued, where no guard holds. -/
theorem transmitterTransitionsAreTheTable : Obligations.TransmitterTransitionsAreTheTable := by
  refine ⟨fun _ _ _ => txState_change_cases,
    fun i s t h hv => ⟨?fromQueue, ?deqFrame, ?goesOn, ?ackMatch, ?resend, ?abandon⟩,
    fun _ _ => exec_tx_waits_of_idle_of_empty⟩
  case fromQueue =>
    rintro (rfl | rfl)
    · cases tx_effect rfl h with
      | held => cases hv
      | deqAck _ _ _ _ hs => exact ⟨hs, hs⟩
    · cases tx_effect rfl h with
      | held => cases hv
      | deqBcast _ _ hs => exact ⟨hs, hs⟩
  case deqFrame =>
    rintro rfl
    cases tx_effect rfl h with
    | held => cases hv
    | deqFrame r _ hs => exact ⟨hs, stamp s r, rfl⟩
  case goesOn =>
    rintro (rfl | ⟨e, rfl⟩)
    · cases tx_effect rfl h with
      | held => cases hv
      | bypassAck f t₀ a _ _ _ _ hs => exact ⟨f, t₀, a, hs, hs⟩
    · cases tx_effect rfl h with
      | held => cases hv
      | ackStale f t₀ a _ hs => exact ⟨f, t₀, a, hs, hs⟩
  case ackMatch =>
    rintro ⟨e, rfl⟩
    cases tx_effect rfl h with
    | held => cases hv
    | ackMatch f t₀ a _ hs => exact ⟨⟨f, t₀, a, hs⟩, rfl⟩
  case resend =>
    rintro rfl
    cases tx_effect rfl h with
    | held => cases hv
    | resend f t₀ a hs _ ha => exact ⟨f, t₀, a, hs, ha, rfl⟩
  case abandon =>
    rintro rfl
    cases tx_effect rfl h with
    | held => cases hv
    | abandon f t₀ a hs _ ha => exact ⟨f, t₀, a, hs, ha, rfl⟩

/-! ## Acks of other peers (R202) -/

/-- But for `RESET`, the other agents at most add to `pending_acks`. -/
theorem pendingAcks_sublist_of_agentOf_ne {i : Instr} {s t : State} (h : exec i s = .next t) (hi : agentOf i ≠ some .tx)
    (hr : ∀ c, i ≠ .reset c) : s.pendingAcks.Sublist t.pendingAcks := by
  rcases agent_cases i with hj | hj | hj | hj | hj
  · rw [pure_frame h hj]
  · rw [(host_frame h hj).1]
  · exact absurd hj hi
  · obtain ⟨-, -, -, hsame | ⟨a, hmore⟩, -⟩ := rx_frame h hj
    · rw [hsame]
    · rw [hmore]; exact List.sublist_append_left _ _
  · rw [env_frame h hj hr]

/-- Settles O38: the entry a Transmitter step removes comes from the peer awaited. -/
theorem acksOfOtherPeersAreNotTouched : Obligations.AcksOfOtherPeersAreNotTouched := by
  intro i s t e h hr _ hother
  by_cases hi : agentOf i = some .tx
  · have hkept {f : DataFrame} {t₀ a : Nat} {x : AckRec} (hs : s.txState = .awaitingAck f t₀ a)
        (hx : x.source = f.destination) : s.pendingAcks.count e ≤ (s.pendingAcks.erase x).count e := by
      have hne : e ≠ x := fun hex => hother f t₀ a hs (hex ▸ hx)
      rw [List.count_erase_of_ne hne]
    cases tx_effect hi h with
    | ackMatch _ _ _ _ hs _ hg =>
      obtain ⟨-, hsource, -⟩ := genuine_iff.mp hg
      exact hkept hs hsource
    | ackStale _ _ _ _ hs _ hg =>
      obtain ⟨-, hsource, -⟩ := stale_iff.mp hg
      exact hkept hs hsource
    | _ => exact le_rfl
  · exact (pendingAcks_sublist_of_agentOf_ne h hi hr).count_le e

/-! ## A frame that is never acknowledged (R203) -/

theorem execAll_append {is : List Instr} {s t : State} (h : execAll is s = .next t) (js : List Instr) :
    execAll (is ++ js) s = execAll js t := by
  induction is generalizing s with
  | nil => cases h; rfl
  | cons i is ih =>
    simp only [List.cons_append, execAll] at h ⊢
    cases hi : exec i s with
    | next u => rw [hi] at h; exact ih h
    | fault r => rw [hi] at h; cases h
    | refused r => rw [hi] at h; cases h

theorem execAll_singleton {i : Instr} {s t : State} (h : exec i s = .next t) : execAll [i] s = .next t := by
  simp only [execAll, h]

/-- Ticks move the clock alone, but for the answer, which no tick writes where there is none. -/
theorem execAll_ticks (n : Nat) (s : State) :
    ∃ x, execAll (ticks n) s = .next { s with now := s.now + n, answer := x } := by
  induction n generalizing s with
  | zero => exact ⟨s.answer, rfl⟩
  | succ n ih =>
    obtain ⟨x, hx⟩ := ih { s with now := s.now + 1, answer := .void }
    have hnow : s.now + (n + 1) = s.now + 1 + n := by omega
    exact ⟨x, hnow ▸ hx⟩

/-- What a wait is followed by, where it does not depend on the answer of the last tick. -/
theorem execAll_ticks_append {w : Nat} {i : Instr} {s t : State}
    (h : ∀ x, exec i { s with now := s.now + w, answer := x } = .next t) : execAll (ticks w ++ [i]) s = .next t := by
  obtain ⟨x, hx⟩ := execAll_ticks w s
  rw [execAll_append hx]
  exact execAll_singleton (h x)

/-- After `w` ticks and the retransmission of `f`, `a` attempts before it. -/
abbrev retried (s : State) (f : DataFrame) (a w : Nat) : State :=
  { s with
    now := s.now + w
    txStream := s.txStream ++ btSend (frameUnit f)
    diag := s.diag ++ [⟨.resend, .attempts (a + 1)⟩]
    txState := .awaitingAck f (s.now + w) (a + 1)
    answer := .void }

section Wait

variable {s : State} {f : DataFrame} {t a w : Nat}

theorem execAll_wait_resend (hs : s.txState = .awaitingAck f t a) (ht : t ≤ s.now) (hg : genuinePending s f = false)
    (hw : s.cfg.timeoutTicks ≤ w) (ha : a < s.cfg.maxResend) :
    execAll (ticks w ++ [.txResend]) s = .next (retried s f a w) := by
  refine execAll_ticks_append fun x => ?_
  have hx : s.now + w - t ≥ s.cfg.timeoutTicks := by omega
  exact exec_of_transmitterEffect (s := { s with now := s.now + w, answer := x })
    (.resend f t a hs (expired_iff.mpr hx) ha hg) rfl

theorem execAll_wait_abandon (hs : s.txState = .awaitingAck f t a) (ht : t ≤ s.now) (hg : genuinePending s f = false)
    (hw : s.cfg.timeoutTicks ≤ w) (ha : a = s.cfg.maxResend) :
    execAll (ticks w ++ [.txAbandon]) s = .next { s with
      now := s.now + w
      diag := s.diag ++ [⟨.abandon, .header (headerOf f)⟩]
      txState := .idle
      answer := .void } := by
  refine execAll_ticks_append fun x => ?_
  have hx : s.now + w - t ≥ s.cfg.timeoutTicks := by omega
  exact exec_of_transmitterEffect (s := { s with now := s.now + w, answer := x })
    (.abandon f t a hs (expired_iff.mpr hx) ha hg) rfl

end Wait

/-- From any attempt on: the waits that are left, each with its retransmission, then the last one and the abandonment. -/
theorem execAll_retries {waits : List Nat} {s : State} {f : DataFrame} {t a last : Nat}
    (hs : s.txState = .awaitingAck f t a) (ht : t ≤ s.now) (hg : genuinePending s f = false)
    (hlen : a + waits.length = s.cfg.maxResend) (hwaits : ∀ w ∈ waits, s.cfg.timeoutTicks ≤ w)
    (hlast : s.cfg.timeoutTicks ≤ last) :
    execAll (waits.flatMap (fun w => ticks w ++ [.txResend]) ++ (ticks last ++ [.txAbandon])) s = .next { s with
      now := s.now + waits.sum + last
      txStream := s.txStream ++ (List.replicate waits.length (btSend (frameUnit f))).flatten
      diag := s.diag ++ (List.range' a waits.length).map (fun k => ⟨.resend, .attempts (k + 1)⟩) ++
        [⟨.abandon, .header (headerOf f)⟩]
      txState := .idle
      answer := .void } := by
  induction waits generalizing s t a with
  | nil => simpa using execAll_wait_abandon hs ht hg hlast hlen
  | cons w ws ih =>
    obtain ⟨hw, hws⟩ := List.forall_mem_cons.mp hwaits
    rw [List.length_cons] at hlen
    have hfirst := execAll_wait_resend hs ht hg hw (by omega)
    have hleft : a + 1 + ws.length = s.cfg.maxResend := by omega
    rw [List.flatMap_cons, List.append_assoc, execAll_append hfirst,
      ih (s := retried s f a w) rfl le_rfl hg hleft hws hlast]
    simp [List.replicate_succ, List.range'_succ, Nat.add_assoc]

/-- Settles O39: all the retries, from the first attempt on. -/
theorem retriesAreBoundedThenAbandoned : Obligations.RetriesAreBoundedThenAbandoned := by
  intro s f t waits last hs ht hg hlen hwaits hlast
  rw [execAll_retries hs ht hg (by omega) hwaits hlast, hlen, List.range_eq_range']

/-! ## The Transmitter never stops (R197, R200, R205) -/

theorem genuinePending_eq_false_of_none_awaited {s : State} {f : DataFrame} (h : oldestPending s (awaited s f) = none) :
    genuinePending s f = false := by
  refine genuinePending_eq_false_iff.mpr fun e he hgen => ?_
  have hnot := List.find?_eq_none.mp h e he
  obtain ⟨hdst, hsrc, -⟩ := hgen
  simp [awaited, hdst, hsrc] at hnot

/-- What the reference poll picks has its guard. -/
theorem pollStep_effect {s : State} {i : Instr} (hs : Inv s) (h : pollStep s = some i) :
    ∃ t, TransmitterEffect s i t ∧ t.answer = .void := by
  unfold pollStep at h
  split at h
  next f t a hst =>
    split at h
    next e hold =>
      have hmem : e ∈ s.pendingAcks := List.mem_of_find?_eq_some hold
      have hawaited : awaited s f e = true := List.find?_some hold
      split at h
      next hn => cases h; exact ⟨_, .ackMatch f t a e hst hmem (by simp [genuine, hawaited, hn]), rfl⟩
      next hn => cases h; exact ⟨_, .ackStale f t a e hst hmem (by simp [stale, hawaited, hn]), rfl⟩
    next hnone =>
      have hg := genuinePending_eq_false_of_none_awaited hnone
      split at h
      next hq => cases h; exact ⟨_, .bypassAck f t a _ _ _ _ hst hq, rfl⟩
      next =>
        split at h
        next hx =>
          split at h
          next ha => cases h; exact ⟨_, .resend f t a hst hx ha hg, rfl⟩
          next ha =>
            obtain ⟨-, -, -, -, hle, -, -⟩ := hs.inFlight f t a hst
            cases h
            exact ⟨_, .abandon f t a hst hx (Nat.le_antisymm hle (Nat.not_lt.mp ha)) hg, rfl⟩
        next => cases h
  next hst =>
    split at h
    next hq => cases h; exact ⟨_, .deqAck _ _ _ _ hst hq, rfl⟩
    next hq =>
      split at h
      next hd => cases h; exact ⟨_, .deqBcast _ _ hst hq hd, rfl⟩
      next hd => cases h; exact ⟨_, .deqFrame _ _ hst hq hd, rfl⟩
    next => cases h

/-- Where the reference poll picks nothing, there is nothing to do, or not yet. -/
theorem pollStep_eq_none {s : State} (h : pollStep s = none) :
    (s.txState = .idle ∧ s.egress = []) ∨ ∃ f t a, s.txState = .awaitingAck f t a ∧ expired s t = false := by
  unfold pollStep at h
  split at h
  next f t a hst =>
    refine .inr ⟨f, t, a, hst, ?_⟩
    split at h
    next => split at h <;> cases h
    next =>
      split at h
      next => cases h
      next =>
        split at h
        next => split at h <;> cases h
        next hx => simpa using hx
  next hst =>
    split at h
    next => cases h
    next => split at h <;> cases h
    next hq => exact .inl ⟨hst, hq⟩

theorem execAll_keeps_inv {is : List Instr} {s t : State} (hs : Inv s) (h : execAll is s = .next t) : Inv t := by
  induction is generalizing s with
  | nil => cases h; exact hs
  | cons i is ih =>
    simp only [execAll] at h
    split at h
    next u hu => exact ih (exec_keeps_inv hs hu) h
    next => cases h
    next => cases h

/-- Some ticks on, the reference poll picks a step, but where the Transmitter is idle with nothing queued. -/
theorem exists_ticks_pollStep {s : State} (hs : Inv s) : (s.txState = .idle ∧ s.egress = []) ∨
    ∃ n i u, execAll (ticks n) s = .next u ∧ pollStep u = some i := by
  cases hp : pollStep s with
  | some i => exact .inr ⟨0, i, s, rfl, hp⟩
  | none =>
    rcases pollStep_eq_none hp with hidle | ⟨f, t, a, hst, -⟩
    · exact .inl hidle
    · obtain ⟨x, hx⟩ := execAll_ticks s.cfg.timeoutTicks s
      obtain ⟨-, -, -, ht, -⟩ := hs.inFlight f t a hst
      have hexpired : expired { s with now := s.now + s.cfg.timeoutTicks, answer := x } t = true :=
        expired_iff.mpr (show s.now + s.cfg.timeoutTicks - t ≥ s.cfg.timeoutTicks by omega)
      refine .inr ⟨s.cfg.timeoutTicks, ?_⟩
      cases hu : pollStep { s with now := s.now + s.cfg.timeoutTicks, answer := x } with
      | some i => exact ⟨i, _, hx, hu⟩
      | none =>
        rcases pollStep_eq_none hu with ⟨hidle, -⟩ | ⟨f', t', a', hst', hnot⟩
        · cases hst.symm.trans hidle
        · cases hst.symm.trans hst'
          cases hexpired.symm.trans hnot

/-- The guards of the timer's steps exclude a genuine Ack (R200). -/
theorem ne_timer_step_of_genuinePending {s t : State} {i : Instr} (h : TransmitterEffect s i t) (hv : t.answer = .void)
    {f : DataFrame} {t₀ a : Nat} (hst : s.txState = .awaitingAck f t₀ a) (hg : genuinePending s f = true) :
    i ≠ .txResend ∧ i ≠ .txAbandon := by
  cases h with
  | held => cases hv
  | resend _ _ _ hst' _ _ hnone | abandon _ _ _ hst' _ _ hnone =>
    cases hst.symm.trans hst'
    cases hg.symm.trans hnone
  | _ => exact ⟨nofun, nofun⟩

/-- Settles O40: the reference poll picks an enabled step, now or some ticks on. -/
theorem transmitterNeverStops : Obligations.TransmitterNeverStops := by
  refine ⟨fun s hs => ?enabled, fun s i hs hp => ?poll⟩
  case enabled =>
    rcases exists_ticks_pollStep hs with hidle | ⟨n, i, u, hu, hp⟩
    · exact .inl hidle
    · obtain ⟨t, ht, hv⟩ := pollStep_effect (execAll_keeps_inv hs hu) hp
      exact .inr ⟨n, i, u, t, agentOf_of_transmitterEffect ht hv, hu, exec_of_transmitterEffect ht hv, hv⟩
  case poll =>
    obtain ⟨t, ht, hv⟩ := pollStep_effect hs hp
    exact ⟨⟨t, exec_of_transmitterEffect ht hv, hv⟩, fun _ _ _ => ne_timer_step_of_genuinePending ht hv⟩

/-! ## One frame between two cards (R203) -/

/-- A unit's bytes made available between two units and consumed one by one: its outcome, where it is not held. -/
theorem receiveAll_btSend {s : State} {u : Bytes} {v : Verdict} (hbuf : s.rxBuf = []) (he : s.rxEsc = false)
    (hc : classify s u = v) (hv : verdictHeld s v = false) :
    receiveAll (btSend u) { s with rxStream := btSend u } =
      .next { applyVerdict s u v with rxStream := [], rxBuf := [], answer := .void } := by
  subst hc
  have hread : btRecvFrom [] false (btSend u ++ []) = some (u, []) := btRecvFrom_btSend u []
  have hcomplete : Completes { s with rxStream := [Config.flag], rxBuf := u } u [] := ⟨rfl, he, rfl⟩
  have hstep := unitStep_of_not_held hcomplete ((verdictHeld_unstuffer s _ u _).trans hv)
  rw [classify_unstuffer, applyVerdict_unstuffer s [] [] u] at hstep
  rw [receiveAll_eq_exec_rxUnit (s := { s with rxStream := btSend u }) hread (List.append_nil _).symm hbuf he]
  exact hstep

/-- A made frame that fits, has come to its destination and was not seen last is new. -/
theorem classify_frameUnit_makeFrame {s : State} {source bit : Byte} {payload : Bytes}
    (hl : payload.length ≤ s.cfg.maxPayload) (hm : s.cfg.maxPayload ≤ 65535) (hn : seen s source ≠ some bit) :
    classify s (frameUnit (makeFrame source s.cfg.deviceId bit payload)) =
      .frameNew (makeFrame source s.cfg.deviceId bit payload) := by
  have hlen := makeFrame_payloadLength source s.cfg.deviceId bit (hl.trans hm)
  obtain ⟨hh, hp⟩ := frmVerify_makeFrame source s.cfg.deviceId bit payload
  have hadr : addressedHere s (makeFrame source s.cfg.deviceId bit payload) = true := by simp [addressedHere, makeFrame]
  have hnew : seen s (makeFrame source s.cfg.deviceId bit payload).source ≠
    some (makeFrame source s.cfg.deviceId bit payload).ackBit := hn
  rw [classify_frameUnit hlen hl]
  simp [hh, hp, hadr, hnew]

theorem classify_ackEncode {s : State} (hp : pendingFull s = false) (source number : Byte) :
    classify s (ackEncode source s.cfg.deviceId number) = .ackAccept (makeAck source s.cfg.deviceId number) := by
  have hdst : (makeAck source s.cfg.deviceId number).destination = s.cfg.deviceId := rfl
  rw [ackEncode, classify_ackUnit]
  simp [ackVerify_makeAck, hdst, hp]

/-- The receiving card's part: the frame is delivered, and its Ack, which finds `egress` empty, is transmitted. -/
theorem deliver_and_acknowledge {b : State} {f : DataFrame} (hbuf : b.rxBuf = []) (hesc : b.rxEsc = false)
    (hidle : b.txState = .idle) (hegress : b.egress = []) (hcap : 1 ≤ b.cfg.egressCap)
    (hingress : b.cfg.ingressCap ≠ .bounded b.ingress.length) (hunicast : f.destination ≠ b.cfg.broadcastAddr)
    (hnew : classify b (frameUnit f) = .frameNew f) :
    ∃ b1 b2, receiveAll (btSend (frameUnit f)) { b with rxStream := btSend (frameUnit f) } = .next b1 ∧
      b1.ingress = b.ingress ++ [f] ∧ exec .txDeqAck b1 = .next b2 ∧
      b2.txStream = b.txStream ++ btSend (ackEncode b.cfg.deviceId f.source f.ackBit) ∧ b2.egress = [] := by
  have hin : ingressFull b = false := by rwa [← Bool.not_eq_true, ingressFull_iff]
  have heg : egressFull b = false := by
    rw [← Bool.not_eq_true, egressFull_iff, hegress, List.length_nil]
    omega
  have hheld : verdictHeld b (.frameNew f) = false := by simp [verdictHeld, hin, heg]
  have hrx := receiveAll_btSend hbuf hesc hnew hheld
  have hqueue : (applyVerdict b (frameUnit f) (.frameNew f)).egress = [.ackOut b.cfg.deviceId f.source f.ackBit] := by
    simp [applyVerdict, acknowledge_egress, hunicast, hegress]
  have hstate : (applyVerdict b (frameUnit f) (.frameNew f)).txState = .idle := by simp [applyVerdict, hidle]
  have hingr : (applyVerdict b (frameUnit f) (.frameNew f)).ingress = b.ingress ++ [f] := by simp [applyVerdict]
  have hstream : (applyVerdict b (frameUnit f) (.frameNew f)).txStream = b.txStream := by simp [applyVerdict]
  refine ⟨_, _, hrx, hingr, exec_of_transmitterEffect (.deqAck _ _ _ [] hstate hqueue) rfl, ?_, rfl⟩
  exact congrArg (· ++ btSend (ackEncode b.cfg.deviceId f.source f.ackBit)) hstream

/-- The sending card's part: the Ack of the frame in flight is accepted and ends the wait. -/
theorem accept_and_match {a : State} {f : DataFrame} {t n : Nat} (hst : a.txState = .awaitingAck f t n)
    (hbuf : a.rxBuf = []) (hesc : a.rxEsc = false) (hpending : a.pendingAcks = []) (hcap : a.cfg.pendingCap.legal = true) :
    ∃ a2, receiveAll (btSend (ackEncode f.destination a.cfg.deviceId a.nextAckToSend))
        { a with rxStream := btSend (ackEncode f.destination a.cfg.deviceId a.nextAckToSend) } = .next a2 ∧
      exec (.txAckMatch (makeAck f.destination a.cfg.deviceId a.nextAckToSend)) a2 = .next { a with
        pendingAcks := []
        nextAckToSend := 1 - a.nextAckToSend
        txState := .idle
        rxStream := []
        rxBuf := []
        answer := .void } := by
  have hroom : pendingFull a = false := by
    rw [← Bool.not_eq_true, pendingFull_iff, hpending]
    exact (capacity_legal_iff _).mp hcap
  have hrx := receiveAll_btSend hbuf hesc (classify_ackEncode hroom f.destination a.nextAckToSend) rfl
  have hmem : makeAck f.destination a.cfg.deviceId a.nextAckToSend ∈
      a.pendingAcks ++ [makeAck f.destination a.cfg.deviceId a.nextAckToSend] := List.mem_append_right _ List.mem_cons_self
  have hmatch := exec_of_transmitterEffect
    (s := { a.insertAck (makeAck f.destination a.cfg.deviceId a.nextAckToSend) with
      rxStream := [], rxBuf := [], answer := .void })
    (.ackMatch f t n _ hst hmem (genuine_iff.mpr ⟨rfl, rfl, rfl⟩)) rfl
  refine ⟨_, hrx, hmatch.trans ?_⟩
  simp [State.insertAck, hpending]

/-- Settles O60: the frame is new to `b`, whose Ack is then alone in `egress`; `a` accepts the Ack, and it is genuine. -/
theorem oneFrameConvergesOverReliableMedium : Obligations.OneFrameConvergesOverReliableMedium := by
  intro a b r q hidle hegress hunicast hpending hpcap habuf haesc _ hdev hbcast hlen hmax hbidle hbegress hecap hingress
    hbbuf hbesc _ hseen
  have hnew : classify b (frameUnit (stamp a r)) = .frameNew (stamp a r) := by
    rw [stamp, ← hdev]
    exact classify_frameUnit_makeFrame hlen hmax hseen
  have hsend := unicastFrameIsSentAndAwaited a r q hidle hegress hunicast
  obtain ⟨b1, b2, hrx, hdelivered, hack, hackWire, hdone⟩ := deliver_and_acknowledge (f := stamp a r) hbbuf hbesc hbidle
    hbegress hecap hingress (hbcast ▸ hunicast) hnew
  obtain ⟨a2, hackRx, hmatch⟩ := accept_and_match (a := { a with
    egress := q
    txStream := a.txStream ++ btSend (frmEncode a.cfg.deviceId r.destination a.nextAckToSend r.payload)
    txState := .awaitingAck (stamp a r) a.now 0
    answer := .void }) rfl habuf haesc hpending hpcap
  rw [hdev] at hackWire ⊢
  exact ⟨_, b1, b2, a2, _, _, _, hsend, rfl, hrx, hdelivered, hack, hackWire, hdone, hackRx, hmatch, rfl, rfl, rfl, rfl, rfl,
    rfl, rfl⟩

end Sys2Proof.Proofs

/-! The Receiver (45_receiver.md R220 to R233): each outcome of a completed unit under its three names, which units are read as
frames for this card and what is held or acknowledged for them, and the same frame received twice. -/

namespace Sys2Proof.Proofs

open Sys2Proof Sys2Proof.Machine Sys2Proof.Laws

/-! ## An outcome under its three names (R220) -/

/-- At the `FLAG` that completes a unit, an outcome that is not held takes effect: as its own operation, as `RX.UNIT`, as the
byte. -/
theorem exec_outcome {s : State} {u rest : Bytes} {v : Verdict} (h : Completes s u rest) (hc : classify s u = v)
    (hv : verdictHeld s v = false) {i : Instr} (hi : i = outcomeInstr u v ∨ i = .rxUnit u ∨ i = .btRxbyte 0x7E) :
    exec i s = .next { applyVerdict s u v with rxStream := rest, rxBuf := [], answer := .void } := by
  subst hc
  have hunit : unitStep s u =
      .next { applyVerdict s u (classify s u) with rxStream := rest, rxBuf := [], answer := .void } := by
    rw [unitStep_of_not_held h hv, applyVerdict_unstuffer]
  rcases hi with rfl | rfl | rfl
  · exact (exec_outcomeInstr_classify s u).trans ((outcomeStep_classify s u).trans hunit)
  · exact hunit
  · have hflag := unitStep_of_completes h
    obtain ⟨-, he, -⟩ := h
    exact (exec_btRxbyte_flag he).trans (hflag.symm.trans hunit)

/-! ## Acks (R222 to R225) -/

/-- Settles O41: the four verdicts on a five-byte unit, none of which is held. -/
theorem ackUnitsHaveTheirOutcomes : Obligations.AckUnitsHaveTheirOutcomes := by
  intro s a rest hs he hbuf
  have hc : Completes s (ackUnit a) rest := ⟨hs, he, hbuf⟩
  have hclass := classify_ackUnit s a
  simp only [ackVerify_eq_false_iff, pendingFull_iff] at hclass
  refine ⟨fun hsum i => ?dropChk, fun hsum hdst i => ?dropAddr, fun hsum hdst hfull i => ?dropFull,
    fun hsum hdst hroom i => ?accept⟩
  case dropChk => exact exec_outcome hc (hclass.trans (if_pos hsum)) rfl
  case dropAddr => exact exec_outcome hc (by simpa [hsum, hdst] using hclass) rfl
  case dropFull => exact exec_outcome hc (by simpa [hsum, hdst, hfull] using hclass) rfl
  case accept => exact exec_outcome hc (by simpa [hsum, hdst, hroom] using hclass) rfl

/-! ## Units of no legal length (R226) -/

theorem classify_of_error {s : State} {u : Bytes} {reason : LenReason} (h5 : u.length ≠ 5)
    (hd : frmDecode s.cfg u = .error reason) : classify s u = .frameDropLen reason := by
  have hsize : ¬u.length = Config.ackSize := h5
  rw [classify, if_neg hsize, hd]

theorem lenInfo_lengthMismatch_parts (b0 b1 b2 b3 b4 b5 b6 : Byte) (payload : Bytes) (c0 c1 : Byte) :
    lenInfo .lengthMismatch ([b0, b1, b2, b3, b4, b5, b6] ++ payload ++ [c0, c1]) =
      .lengths (b3.toNat * 256 + b4.toNat) payload.length := by
  simp [lenInfo, memRead2, memRead1, be16_toNat, Config.frameOverhead]

/-- Settles O42: the three errors of `FRM.DECODE`. -/
theorem undecodableUnitsAreDropped : Obligations.UndecodableUnitsAreDropped := by
  intro s u rest hs he hbuf h5
  have hc : Completes s u rest := ⟨hs, he, hbuf⟩
  refine ⟨fun hlen i => ?short, fun hlen i => ?long, ?mismatch⟩
  case short => exact exec_outcome hc (classify_of_error h5 (frmDecode_short s.cfg hlen)) rfl
  case long => exact exec_outcome hc (classify_of_error h5 (frmDecode_long s.cfg hlen)) rfl
  case mismatch =>
    rintro b0 b1 b2 b3 b4 b5 b6 payload c0 c1 rfl hmax hlen i
    have hd := frmDecode_parts s.cfg b0 b1 b2 b3 b4 b5 b6 payload c0 c1
    rw [if_neg (Nat.not_lt.mpr hmax), if_pos hlen] at hd
    rw [← lenInfo_lengthMismatch_parts b0 b1 b2 b3 b4 b5 b6 payload c0 c1]
    exact exec_outcome hc (classify_of_error h5 hd) rfl

/-! ## Corrupted and misaddressed frames (R227, R228) -/

theorem frmVerifyHdr_eq_false_iff {f : DataFrame} : frmVerifyHdr f = false ↔
    f.headerChecksum ≠ headerSum f.source f.destination f.ackBit f.payloadLength := beq_eq_false_iff_ne

theorem frmVerifyPay_eq_false_iff {f : DataFrame} : frmVerifyPay f = false ↔ f.payloadChecksum ≠ payloadSum f.payload :=
  beq_eq_false_iff_ne

theorem addressedHere_iff {s : State} {f : DataFrame} : addressedHere s f = true ↔
    f.destination = s.cfg.deviceId ∨ f.destination = s.cfg.broadcastAddr := by
  simp only [addressedHere, Bool.or_eq_true, beq_iff_eq]

/-- Settles O43: the first three tests on a decoded frame, in their order. -/
theorem corruptedAndMisaddressedFramesAreDropped : Obligations.CorruptedAndMisaddressedFramesAreDropped := by
  intro s f rest hs he hbuf hlen hmax
  have hc : Completes s (frameUnit f) rest := ⟨hs, he, hbuf⟩
  have hclass := classify_frameUnit hlen hmax
  simp only [frmVerifyHdr_eq_false_iff, frmVerifyPay_eq_false_iff] at hclass
  refine ⟨fun hhdr i => ?header, fun hhdr hpay i => ?payload, fun hhdr hpay hdev hbcast i => ?address⟩
  case header => exact exec_outcome hc (hclass.trans (if_pos hhdr)) rfl
  case payload => exact exec_outcome hc (by simpa [hhdr, hpay] using hclass) rfl
  case address =>
    have hadr : addressedHere s f = false := by
      rw [← Bool.not_eq_true, addressedHere_iff]
      exact not_or.mpr ⟨hdev, hbcast⟩
    exact exec_outcome hc (by simpa [hhdr, hpay, hadr] using hclass) rfl

/-! ## Frames for this card (R229, R230) -/

/-- `u` is read as the frame `f`, sound and addressed here. -/
def ReadsAsFrameHere (s : State) (u : Bytes) (f : DataFrame) : Prop :=
  frmDecode s.cfg u = .ok f ∧ u.length ≠ 5 ∧ soundFrame s.cfg f = true ∧
    (f.destination = s.cfg.deviceId ∨ f.destination = s.cfg.broadcastAddr)

section Reads

variable {s : State} {u : Bytes} {f : DataFrame}

theorem readsAsFrameHere_frameUnit (hs : soundFrame s.cfg f = true)
    (ha : f.destination = s.cfg.deviceId ∨ f.destination = s.cfg.broadcastAddr) : ReadsAsFrameHere s (frameUnit f) f := by
  obtain ⟨hlen, hmax, -⟩ := soundFrame_iff.mp hs
  have h5 : (frameUnit f).length ≠ 5 := by rw [frameUnit_length]; omega
  exact ⟨frmDecode_frameUnit s.cfg hlen hmax, h5, hs, ha⟩

theorem classify_of_readsAsFrameHere (h : ReadsAsFrameHere s u f) :
    classify s u = if seen s f.source = some f.ackBit then .frameDup f else .frameNew f := by
  obtain ⟨hd, -, hs, ha⟩ := h
  obtain ⟨rfl, hlen, hmax⟩ := frmDecode_ok hd
  obtain ⟨-, -, hhdr, hpay⟩ := soundFrame_iff.mp hs
  rw [classify_frameUnit hlen hmax]
  simp [frmVerifyHdr_eq_false_iff, frmVerifyPay_eq_false_iff, hhdr, hpay, addressedHere_iff.mpr ha]

/-- Only such a unit is a duplicate or new. -/
theorem readsAsFrameHere_of_classify (h : classify s u = .frameDup f ∨ classify s u = .frameNew f) :
    ReadsAsFrameHere s u f := by
  rcases classify_cases s u with ⟨a, -, hc⟩ | ⟨h5, ⟨reason, -, hc⟩ | ⟨f', hd, hc⟩⟩
  · rcases hc with ⟨-, hc⟩ | ⟨-, -, hc⟩ | ⟨-, -, -, hc⟩ | ⟨-, -, -, hc⟩ <;> simp [hc] at h
  · simp [hc] at h
  · rcases hc with ⟨-, hc⟩ | ⟨-, -, hc⟩ | ⟨-, -, -, hc⟩ | ⟨hhdr, hpay, ha, -, hc⟩ | ⟨hhdr, hpay, ha, -, hc⟩
    · simp [hc] at h
    · simp [hc] at h
    · simp [hc] at h
    all_goals
      obtain rfl : f' = f := by simpa [hc] using h
      exact ⟨hd, h5, soundFrame_of_verified hd hhdr hpay, addressedHere_iff.mp ha⟩

theorem unicast_iff : unicast s f = true ↔ f.destination ≠ s.cfg.broadcastAddr := bne_iff_ne

/-- R231: delivery needs room in `ingress`, an Ack in `egress`. -/
theorem verdictHeld_of_readsAsFrameHere (h : ReadsAsFrameHere s u f) : verdictHeld s (classify s u) = true ↔
    (seen s f.source ≠ some f.ackBit ∧ s.cfg.ingressCap = .bounded s.ingress.length) ∨
      (f.destination ≠ s.cfg.broadcastAddr ∧ s.egress.length = s.cfg.egressCap) := by
  rw [classify_of_readsAsFrameHere h]
  by_cases hseen : seen s f.source = some f.ackBit
  · simp [hseen, verdictHeld, unicast_iff, egressFull_iff]
  · simp [hseen, verdictHeld, unicast_iff, egressFull_iff, ingressFull_iff]

theorem verdictHeld_eq_false_of_room (h : ReadsAsFrameHere s u f)
    (hingress : seen s f.source ≠ some f.ackBit → s.cfg.ingressCap ≠ .bounded s.ingress.length)
    (hegress : f.destination ≠ s.cfg.broadcastAddr → s.egress.length ≠ s.cfg.egressCap) :
    verdictHeld s (classify s u) = false := by
  rw [← Bool.not_eq_true, verdictHeld_of_readsAsFrameHere h]
  rintro (⟨hnew, hfull⟩ | ⟨hunicast, hfull⟩)
  · exact hingress hnew hfull
  · exact hegress hunicast hfull

/-- One Ack for a unicast frame, whether new or a duplicate. -/
theorem egress_of_readsAsFrameHere (h : ReadsAsFrameHere s u f) : (applyVerdict s u (classify s u)).egress =
    if f.destination = s.cfg.broadcastAddr then s.egress else s.egress ++ [.ackOut s.cfg.deviceId f.source f.ackBit] := by
  rw [classify_of_readsAsFrameHere h]
  split
  · exact acknowledge_egress (s.emit .dupFrame (.header (headerOf f))) f
  · exact acknowledge_egress ((s.recordSeen f.source f.ackBit).enqIngress f) f

/-- Every other unit is dropped, or is an Ack: it is not held and queues no Ack. -/
theorem outcome_of_not_readsAsFrameHere (h : ∀ f, ¬ReadsAsFrameHere s u f) :
    verdictHeld s (classify s u) = false ∧ (applyVerdict s u (classify s u)).egress = s.egress := by
  cases hc : classify s u with
  | frameDup f => exact absurd (readsAsFrameHere_of_classify (.inl hc)) (h f)
  | frameNew f => exact absurd (readsAsFrameHere_of_classify (.inr hc)) (h f)
  | _ => exact ⟨rfl, rfl⟩

end Reads

theorem acknowledge_eq (s : State) (f : DataFrame) : s.acknowledge f = { s with
    egress := if f.destination = s.cfg.broadcastAddr then s.egress
      else s.egress ++ [.ackOut s.cfg.deviceId f.source f.ackBit] } := by
  rw [← acknowledge_egress, State.acknowledge]
  split <;> rfl

/-- Settles O44: a frame for this card whose bit is recorded; `egress` is all that can hold it. -/
theorem duplicateFramesAreAcknowledgedOnly : Obligations.DuplicateFramesAreAcknowledgedOnly := by
  intro s f rest hs he hbuf hsound ha hseen hroom i hi
  have hreads := readsAsFrameHere_frameUnit hsound ha
  have hclass : classify s (frameUnit f) = .frameDup f := (classify_of_readsAsFrameHere hreads).trans (if_pos hseen)
  have hheld := verdictHeld_eq_false_of_room hreads (fun hnew => absurd hseen hnew) hroom
  rw [hclass] at hheld
  rw [exec_outcome ⟨hs, he, hbuf⟩ hclass hheld hi, applyVerdict, acknowledge_eq]
  rfl

/-- Settles O45: a frame for this card whose bit is not recorded; either queue can hold it. -/
theorem newFramesAreDelivered : Obligations.NewFramesAreDelivered := by
  intro s f rest hs he hbuf hsound ha hseen hingress hroom i hi
  have hreads := readsAsFrameHere_frameUnit hsound ha
  have hclass : classify s (frameUnit f) = .frameNew f := (classify_of_readsAsFrameHere hreads).trans (if_neg hseen)
  have hheld := verdictHeld_eq_false_of_room hreads (fun _ => hingress) hroom
  rw [hclass] at hheld
  rw [exec_outcome ⟨hs, he, hbuf⟩ hclass hheld hi, applyVerdict, acknowledge_eq]
  rfl

/-! ## What is held, and what is acknowledged (R231, R233) -/

theorem verdictHeld_classify_iff {s : State} {u : Bytes} : verdictHeld s (classify s u) = true ↔
    ∃ f, ReadsAsFrameHere s u f ∧ ((seen s f.source ≠ some f.ackBit ∧ s.cfg.ingressCap = .bounded s.ingress.length) ∨
      (f.destination ≠ s.cfg.broadcastAddr ∧ s.egress.length = s.cfg.egressCap)) := by
  constructor
  · intro hv
    by_cases h : ∃ f, ReadsAsFrameHere s u f
    · obtain ⟨f, hf⟩ := h
      exact ⟨f, hf, (verdictHeld_of_readsAsFrameHere hf).mp hv⟩
    · obtain ⟨hfree, -⟩ := outcome_of_not_readsAsFrameHere (not_exists.mp h)
      cases hfree.symm.trans hv
  · rintro ⟨f, hf, hfull⟩
    exact (verdictHeld_of_readsAsFrameHere hf).mpr hfull

/-- A completed unit is held, the answer alone being written, or its outcome takes effect. -/
theorem exec_rxUnit_cases {s t : State} {u rest : Bytes} (h : Completes s u rest) (ht : exec (.rxUnit u) s = .next t) :
    (verdictHeld s (classify s u) = true ∧ t = { s with answer := .held }) ∨
    (verdictHeld s (classify s u) = false ∧
      t = { applyVerdict s u (classify s u) with rxStream := rest, rxBuf := [], answer := .void }) := by
  cases hv : verdictHeld s (classify s u) with
  | true => exact .inl ⟨rfl, Host.Outcome.next.inj (ht.symm.trans (unitStep_of_held h hv))⟩
  | false => exact .inr ⟨rfl, Host.Outcome.next.inj (ht.symm.trans (exec_outcome h rfl hv (.inr (.inl rfl))))⟩

/-- Settles O47: the answer tells a hold from an outcome, `verdictHeld_classify_iff` says which units are held, and O26 that the
byte waits as well. -/
theorem onlyDeliveryAndAcksAreHeld : Obligations.OnlyDeliveryAndAcksAreHeld := by
  intro s u rest t h ht
  have hheld : t.answer = .held ↔ verdictHeld s (classify s u) = true := by
    rcases exec_rxUnit_cases h ht with ⟨hv, rfl⟩ | ⟨hv, rfl⟩ <;> simp [hv]
  refine ⟨?which, fun hanswer => ⟨?same, ?deaf⟩⟩
  case which =>
    rw [hheld, verdictHeld_classify_iff]
    simp only [ReadsAsFrameHere, and_assoc]
  case same =>
    rcases exec_rxUnit_cases h ht with ⟨-, rfl⟩ | ⟨-, rfl⟩
    · rfl
    · cases hanswer
  case deaf =>
    obtain ⟨hs, he, hbuf⟩ := h
    obtain ⟨-, hwaits⟩ := terminatorHandlesTheUnit s u rest hs he hbuf
    obtain ⟨-, -, hbyte⟩ := hwaits (hheld.mp hanswer)
    exact hbyte

/-- Settles O48: a unit read as a frame for this card alone is acknowledged; a broadcast frame is for another address. -/
theorem acksAreGeneratedExactly : Obligations.AcksAreGeneratedExactly := by
  intro s t u rest hconfig h ht hanswer
  rcases exec_rxUnit_cases h ht with ⟨-, rfl⟩ | ⟨-, rfl⟩
  · cases hanswer
  by_cases hreads : ∃ f, ReadsAsFrameHere s u f
  · obtain ⟨f, hf⟩ := hreads
    have hegress := egress_of_readsAsFrameHere hf
    obtain ⟨hd, h5, hsound, hdevice | hbcast⟩ := hf
    · rw [if_neg (hdevice ▸ hconfig)] at hegress
      exact .inl ⟨f, hd, h5, hsound, hdevice, hegress⟩
    · rw [if_pos hbcast] at hegress
      refine .inr ⟨hegress, ?_⟩
      rintro ⟨f', hd', -, -, hdevice⟩
      cases hd.symm.trans hd'
      exact hconfig (hdevice.symm.trans hbcast)
  · obtain ⟨-, hegress⟩ := outcome_of_not_readsAsFrameHere (not_exists.mp hreads)
    exact .inr ⟨hegress, fun ⟨f, hd, h5, hsound, hdevice⟩ => hreads ⟨f, hd, h5, hsound, .inl hdevice⟩⟩

/-! ## The same frame twice (R233) -/

theorem receiveAll_append {bytes more : Bytes} {s t : State} (h : receiveAll bytes s = .next t) :
    receiveAll (bytes ++ more) s = receiveAll more t := by
  rw [receiveAll, List.map_append]
  exact execAll_append h _

/-- The state a new unicast frame leaves, with `rest` not yet consumed. -/
abbrev afterNewUnicast (s : State) (f : DataFrame) (rest : Bytes) : State :=
  { s.recordSeen f.source f.ackBit with
    rxStream := rest
    rxBuf := []
    ingress := s.ingress ++ [f]
    egress := s.egress ++ [.ackOut s.cfg.deviceId f.source f.ackBit]
    answer := .void }

theorem seen_afterNewUnicast (s : State) (f : DataFrame) (rest : Bytes) (d : Byte) :
    seen (afterNewUnicast s f rest) d = if f.source = d then some f.ackBit else seen s d :=
  seen_recordSeen s f.source f.ackBit d

section Unicast

variable {s : State} {f : DataFrame} {rest : Bytes} (hs : s.rxStream = btSend (frameUnit f) ++ rest) (hbuf : s.rxBuf = [])
  (he : s.rxEsc = false) (hsound : soundFrame s.cfg f = true) (hdevice : f.destination = s.cfg.deviceId)
  (hconfig : s.cfg.deviceId ≠ s.cfg.broadcastAddr) (hroom : s.egress.length ≠ s.cfg.egressCap)

include hs hbuf he hsound hdevice hconfig hroom

theorem receiveAll_new_unicast (hnew : seen s f.source ≠ some f.ackBit)
    (hingress : s.cfg.ingressCap ≠ .bounded s.ingress.length) :
    receiveAll (btSend (frameUnit f)) s = .next (afterNewUnicast s f rest) := by
  obtain ⟨hbytes, -⟩ := framingDeliversTheUnit s (frameUnit f) rest hs hbuf he
  have hunit := newFramesAreDelivered { s with rxStream := 0x7E :: rest, rxBuf := frameUnit f } f rest rfl he rfl hsound
    (.inl hdevice) hnew hingress (fun _ => hroom) (.rxUnit (frameUnit f)) (.inr (.inl rfl))
  rw [if_neg (hdevice ▸ hconfig)] at hunit
  exact hbytes.trans hunit

theorem receiveAll_duplicate_unicast (hseen : seen s f.source = some f.ackBit) :
    receiveAll (btSend (frameUnit f)) s = .next { s.emit .dupFrame (.header (headerOf f)) with
      rxStream := rest
      rxBuf := []
      egress := s.egress ++ [.ackOut s.cfg.deviceId f.source f.ackBit]
      answer := .void } := by
  obtain ⟨hbytes, -⟩ := framingDeliversTheUnit s (frameUnit f) rest hs hbuf he
  have hunit := duplicateFramesAreAcknowledgedOnly { s with rxStream := 0x7E :: rest, rxBuf := frameUnit f } f rest rfl he
    rfl hsound (.inl hdevice) hseen (fun _ => hroom) (.rxUnit (frameUnit f)) (.inr (.inl rfl))
  rw [if_neg (hdevice ▸ hconfig)] at hunit
  exact hbytes.trans hunit

end Unicast

/-- Settles O49: the first copy is new and records its bit, so the second, received in the state that the first leaves, is a
duplicate. -/
theorem twiceReceivedIsOnceDelivered : Obligations.TwiceReceivedIsOnceDelivered := by
  intro s f rest hs hbuf he hsound hdevice hconfig hnew hingress hroom
  rw [List.append_assoc] at hs
  have hfirst := receiveAll_new_unicast hs hbuf he hsound hdevice hconfig (by omega) hnew hingress
  have hseen := seen_afterNewUnicast s f (btSend (frameUnit f) ++ rest)
  have hroom' : (afterNewUnicast s f (btSend (frameUnit f) ++ rest)).egress.length ≠ s.cfg.egressCap := by
    rw [List.length_append, List.length_singleton]
    omega
  have hrecorded := (hseen f.source).trans (if_pos rfl)
  have hsecond := receiveAll_duplicate_unicast (s := afterNewUnicast s f (btSend (frameUnit f) ++ rest)) rfl rfl he hsound
    hdevice hconfig hroom' hrecorded
  exact ⟨_, (receiveAll_append hfirst).trans hsecond, rfl, List.append_assoc _ _ _, hrecorded,
    fun d hd => (hseen d).trans (if_neg hd.symm), rfl, rfl, he, rfl, rfl, rfl, rfl⟩

end Sys2Proof.Proofs

/-! The host ports and the clock (46_host.md R251, R252, R254; 60_exceptions.md R270): a request in each case of its guard, the
step of a pending request as that of the request itself, and a tick. -/

namespace Sys2Proof.Proofs

open Sys2Proof Sys2Proof.Machine Sys2Proof.Laws

/-! ## Send requests (R251) -/

/-- A request in each case of its guard. -/
theorem sendStep_spec (r : SendReq) (taken kept : List SendReq) (s : State) :
    (r.payload.length > s.cfg.maxPayload → sendStep r taken kept s = .next { s with
      sendPort := taken, diag := s.diag ++ [⟨.sendTooLong, .length r.payload.length⟩], answer := .refused }) ∧
    (r.payload.length ≤ s.cfg.maxPayload → s.egress.length ≠ s.cfg.egressCap →
      sendStep r taken kept s = .next { s with
        sendPort := taken, egress := s.egress ++ [.data r], answer := .queued }) ∧
    (r.payload.length ≤ s.cfg.maxPayload → s.egress.length = s.cfg.egressCap →
      sendStep r taken kept s = .next { s with sendPort := kept, answer := .held }) := by
  rcases sendStep_cases r taken kept s with ⟨hlong, h⟩ | ⟨hfits, hfull, h⟩ | ⟨hfits, hroom, h⟩
  · exact ⟨fun _ => h, fun hfits => absurd hlong hfits.not_gt, fun hfits => absurd hlong hfits.not_gt⟩
  · have hfull := (egressFull_iff s).mp hfull
    exact ⟨fun hlong => absurd hlong hfits.not_gt, fun _ hroom => absurd hfull hroom, fun _ _ => h⟩
  · have hroom := mt (egressFull_iff s).mpr (by simp [hroom])
    exact ⟨fun hlong => absurd hlong hfits.not_gt, fun _ _ => h, fun _ hfull => absurd hfull hroom⟩

/-- The step of a pending request is that of the request: taken, it leaves those before and behind it; held, the port stays. -/
theorem portStep_send_of_append {s : State} {r : SendReq} {before behind : List SendReq}
    (h : s.sendPort = before ++ r :: behind) :
    portStep (.send before.length) s = sendStep r (before ++ behind) s.sendPort s := by
  have hget : s.sendPort[before.length]? = some r := by simp [h]
  have herase : s.sendPort.eraseIdx before.length = before ++ behind := by
    rw [h, List.eraseIdx_append_of_length_le le_rfl, Nat.sub_self, List.eraseIdx_cons_zero]
  simp [portStep, hget, herase]

theorem portStep_send_of_length_le {s : State} {k : Nat} (h : s.sendPort.length ≤ k) :
    portStep (.send k) s = .next { s with answer := .held } := by
  simp [portStep, List.getElem?_eq_none h, hold_eq]

/-- Settles O50: a new and a pending request take the same step, and differ in what the port keeps and loses. -/
theorem hostSendQueuesRefusesOrWaits : Obligations.HostSendQueuesRefusesOrWaits := by
  refine ⟨fun s destination payload => ?new, fun s r before behind hport => ?pending,
    fun s k => portStep_send_of_length_le⟩
  case new => exact sendStep_spec ⟨destination, payload⟩ _ _ s
  case pending =>
    rw [portStep_send_of_append hport]
    exact sendStep_spec r _ _ s

/-! ## Receive requests (R252) -/

theorem recvStep_of_cons {s : State} {f : DataFrame} {rest : List DataFrame} (h : s.ingress = f :: rest)
    (taken kept : Nat) :
    recvStep taken kept s = .next { s with recvPort := taken, ingress := rest, answer := .frame f } := by
  rcases recvStep_cases taken kept s with ⟨f', rest', hq, hr⟩ | ⟨hq, -⟩ <;> cases h.symm.trans hq
  exact hr

theorem recvStep_of_nil {s : State} (h : s.ingress = []) (taken kept : Nat) :
    recvStep taken kept s = .next { s with recvPort := kept, answer := .held } := by
  rcases recvStep_cases taken kept s with ⟨f, rest, hq, -⟩ | ⟨-, hr⟩
  · cases h.symm.trans hq
  · exact hr

theorem portStep_recv_of_zero {s : State} (h : s.recvPort = 0) : portStep .recv s = .next { s with answer := .held } :=
  if_pos h

theorem portStep_recv_of_ne_zero {s : State} (h : s.recvPort ≠ 0) :
    portStep .recv s = recvStep (s.recvPort - 1) s.recvPort s :=
  if_neg h

/-- Settles O51: a new and a pending request take the same step, which the head of `ingress` answers. -/
theorem hostRecvAndTick : Obligations.HostRecvAndTick := by
  refine ⟨fun s f rest hq => recvStep_of_cons hq _ _, fun s hq => recvStep_of_nil hq _ _,
    fun s n f rest hn hq => ?answered, fun s hwait => ?waits, fun s => rfl⟩
  case answered =>
    rw [portStep_recv_of_ne_zero (by simp [hn]), recvStep_of_cons hq, hn, Nat.add_sub_cancel]
  case waits =>
    by_cases hn : s.recvPort = 0
    · exact portStep_recv_of_zero hn
    · exact (portStep_recv_of_ne_zero hn).trans (recvStep_of_nil (hwait.resolve_left hn) _ _)

end Sys2Proof.Proofs

/-! No step stops the machine (60_exceptions.md R264, 30_encoding.md R91): each shared operation on state answers a next state,
and with it the operations of every agent and the step of a pending request. -/

namespace Sys2Proof.Proofs

open Sys2Proof Sys2Proof.Machine Sys2Proof.Laws

/-! ## The shared operations -/

theorem sendStep_next (r : SendReq) (taken kept : List SendReq) (s : State) :
    ∃ t, sendStep r taken kept s = .next t := by
  rcases sendStep_cases r taken kept s with ⟨-, h⟩ | ⟨-, -, h⟩ | ⟨-, -, h⟩ <;> exact ⟨_, h⟩

theorem recvStep_next (taken kept : Nat) (s : State) : ∃ t, recvStep taken kept s = .next t := by
  rcases recvStep_cases taken kept s with ⟨_, _, -, h⟩ | ⟨-, h⟩ <;> exact ⟨_, h⟩

theorem flagStep_next (s : State) : ∃ t, flagStep s = .next t := by
  rw [← unitStep_rxBuf]
  exact unitStep_next s s.rxBuf

theorem withByte_next (s : State) (b : Byte) {k : Bytes → Result} (hk : ∀ rest, ∃ t, k rest = .next t) :
    ∃ t, withByte s b k = .next t := by
  rcases withByte_cases s b k with ⟨rest, -, h⟩ | ⟨-, h⟩
  · exact h ▸ hk rest
  · exact ⟨_, h⟩

/-! ## The agents

`exec_tx_next` is the Transmitter's. -/

/-- Each class of wire byte waits outside its guard on `rx_esc`, and inside it takes its byte or waits for it. -/
theorem exec_rx_next {i : Instr} (hi : agentOf i = some .rx) (s : State) : ∃ t, exec i s = .next t := by
  cases i with
  | rxUnit | uAck | uData => exact unitStep_next s _
  | rxAckAccept | rxAckDropChk | rxAckDropAddr | rxAckDropFull | rxFrameDropLen | rxFrameDropChk | rxFrameDropAddr
  | rxFrameDup | rxFrameNew => exact outcomeStep_next s _ _
  | wFlag => exact flagStep_next s
  | btRxbyte b =>
    refine withByte_next s b fun rest => ?_
    split_ifs
    · exact ⟨_, rfl⟩
    · exact ⟨_, rxTerminator_eq s rest⟩
    · exact ⟨_, rfl⟩
    · exact ⟨_, rfl⟩
  | wEsc | wLiteral =>
    simp only [exec, execWEsc, execWLiteral]
    split
    · exact ⟨_, rfl⟩
    · exact withByte_next s _ fun _ => ⟨_, rfl⟩
  | wEscaped b =>
    simp only [exec, execWEscaped]
    split
    · exact withByte_next s b fun _ => ⟨_, rfl⟩
    · exact ⟨_, rfl⟩
  | _ => cases hi

theorem exec_host_next {i : Instr} (hi : agentOf i = some .host) (s : State) : ∃ t, exec i s = .next t := by
  cases i with
  | hostSend destination payload => exact sendStep_next ⟨destination, payload⟩ _ _ s
  | hostRecv => exact recvStep_next _ _ s
  | _ => cases hi

theorem exec_env_next {i : Instr} (hi : agentOf i = some .env) (s : State) : ∃ t, exec i s = .next t := by
  cases i with
  | envTick => exact ⟨_, rfl⟩
  | reset c =>
    by_cases hc : c.legal = true
    · exact ⟨_, exec_reset_of_legal hc s⟩
    · exact ⟨_, exec_reset_of_illegal hc s⟩
  | _ => cases hi

/-- A decoder answers on whatever it is given, and so does `FRM.ENCODE` on a payload of any length. -/
theorem exec_pure_next {i : Instr} (hi : agentOf i = none) (s : State) : ∃ t, exec i s = .next t := by
  cases i with
  | chkInit | chkAdd | chkFinal | chkSum | frmVerifyHdr | frmVerifyPay | ackEncode | ackVerify | btSend => exact ⟨_, rfl⟩
  | frmEncode | frmDecode | ackDecode | btRecv =>
    simp only [exec, execFrmEncode, execFrmDecode, execAckDecode, execBtRecv]
    split <;> exact ⟨_, rfl⟩
  | _ => cases hi

theorem exec_next (i : Instr) (s : State) : ∃ t, exec i s = .next t := by
  rcases agent_cases i with hi | hi | hi | hi | hi
  · exact exec_pure_next hi s
  · exact exec_host_next hi s
  · exact exec_tx_next hi s
  · exact exec_rx_next hi s
  · exact exec_env_next hi s

/-! ## Pending requests -/

/-- Where no request pends, the step waits. -/
theorem portStep_next (p : PortStep) (s : State) : ∃ t, portStep p s = .next t := by
  cases p with
  | send k =>
    simp only [portStep]
    split
    · exact sendStep_next _ _ _ s
    · exact ⟨_, rfl⟩
  | recv =>
    by_cases hn : s.recvPort = 0
    · exact ⟨_, portStep_recv_of_zero hn⟩
    · exact portStep_recv_of_ne_zero hn ▸ recvStep_next _ _ s

/-- Settles O56, agent by agent. -/
theorem noOperationStopsTheMachine : Obligations.NoOperationStopsTheMachine := ⟨exec_next, portStep_next⟩

end Sys2Proof.Proofs
